-- ==== Sys2Proof/Word.lean ====
section
/-! DEFINITION. The two word sizes YRS moves: 8-bit chip registers and 32-bit host words (spec/00_scope.md R9,
spec/20_memory.md R50). -/

namespace Sys2Proof

/-- One chip register value, chip register address or staging byte (spec/20_memory.md R56). -/
abbrev Byte := BitVec 8

/-- One host register value or command word (spec/10_state.md R23, spec/30_encoding.md R80). -/
abbrev Word := BitVec 32

end Sys2Proof
end

