-- ==== Sys2Proof/Syntax.lean ====
section
/-! DEFINITION. The 14 commands of spec/30_encoding.md R84, one constructor a row of spec/opcode_table.json, with the
operand fields of R82 at their own widths. -/

namespace Sys2Proof

/-- A command of YRS (spec/30_encoding.md R84). -/
inductive Instr where
  /-- NOP (spec/40_register_programmer.md R101). -/
  | nop
  /-- CRESET: reset ChipCore (R102). -/
  | creset
  /-- WREG addr, val: raw register write (R103). -/
  | wreg (addr val : Byte)
  /-- CHSET ch, csel, val: one per-channel register (R104); `sel` is the 3-bit field, legal 0..3. -/
  | chset (ch : BitVec 3) (sel : BitVec 3) (val : Byte)
  /-- OPSET ch, op, osel, val: one per-operator register (R105); `sel` is the 3-bit field, legal 0..5. -/
  | opset (ch : BitVec 3) (op : BitVec 2) (sel : BitVec 3) (val : Byte)
  /-- KEYON ch, mask (R106). -/
  | keyon (ch : BitVec 3) (mask : BitVec 4)
  /-- KEYOFF ch (R107). -/
  | keyoff (ch : BitVec 3)
  /-- VOICE ch: apply the staged VoiceConfig (R108). -/
  | voice (ch : BitVec 3)
  /-- NOTE ch, mask: key off, apply, key on (R109). -/
  | note (ch : BitVec 3) (mask : BitVec 4)
  /-- RSINIT: initialise the resampler state (spec/41_resampler.md R131). -/
  | rsinit
  /-- GEN n: produce n output samples (R132). -/
  | gen (n : BitVec 24)
  /-- RUN b: produce the configured duration and hand it off (R133). -/
  | run (b : Bool)
  /-- PLAY b: hand the pending buffer to the sink (spec/42_normalizer_sink.md R163). -/
  | play (b : Bool)
  /-- STOP: cancel in-flight playback (R164). -/
  | stop
deriving DecidableEq, Repr

end Sys2Proof
end

