-- ==== Sys2Proof/WellFormed.lean ====
section
/-! DEFINITION. Which terms of Instr are commands: the two operand checks the field widths leave over
(spec/30_encoding.md R84, R85, R86). -/

namespace Sys2Proof

/-- CHSET's selector is 0..3: bit 23 of its word must be 0 (spec/30_encoding.md R84, R85). -/
def chSelOk (sel : BitVec 3) : Bool := decide (sel.toNat ≤ 3)

/-- OPSET's selector is 0..5 (spec/30_encoding.md R84, R85). -/
def opSelOk (sel : BitVec 3) : Bool := decide (sel.toNat ≤ 5)

/-- The term is one of the commands of spec/30_encoding.md R84: every other operand value is legal (R86). -/
def Instr.wellFormed : Instr → Bool
  | .chset _ sel _ => chSelOk sel
  | .opset _ _ sel _ => opSelOk sel
  | .nop => true
  | .creset => true
  | .wreg _ _ => true
  | .keyon _ _ => true
  | .keyoff _ => true
  | .voice _ => true
  | .note _ _ => true
  | .rsinit => true
  | .gen _ => true
  | .run _ => true
  | .play _ => true
  | .stop => true

end Sys2Proof
end

