-- ==== Sys2Proof/Decode.lean ====
section
/-! DEFINITION. The decoder of the 32-bit command words, total and strict (spec/30_encoding.md R80 to R86), the encoder
after it (R81, R87), and the rows of R84 as mask and match. -/

namespace Sys2Proof

/-- Why a word is none of the 14 commands (spec/30_encoding.md R85); executing it raises ILLCMD whichever it is. -/
inductive DecodeError where
  /-- Case (a) of R85: an opcode outside the table. -/
  | unknownOpcode
  /-- Case (b) of R85: a must-be-zero bit of a defined opcode is set. -/
  | mustBeZero
  /-- Case (c) of R85: OPSET with sel 6 or 7. -/
  | reservedSelector
deriving DecidableEq, Repr

/-! ### The fields of R82 -/

/-- OP = w[31:24]. -/
def opField (w : Word) : Byte := w.extractLsb' 24 8
/-- sel = w[23:21]. -/
def selField (w : Word) : BitVec 3 := w.extractLsb' 21 3
/-- op = w[20:19]. -/
def operatorField (w : Word) : BitVec 2 := w.extractLsb' 19 2
/-- ch = w[18:16]. -/
def chField (w : Word) : BitVec 3 := w.extractLsb' 16 3
/-- mask = w[11:8]. -/
def maskField (w : Word) : BitVec 4 := w.extractLsb' 8 4
/-- addr = w[15:8]. -/
def addrField (w : Word) : Byte := w.extractLsb' 8 8
/-- val = w[7:0]. -/
def valField (w : Word) : Byte := w.extractLsb' 0 8
/-- n = w[23:0]. -/
def nField (w : Word) : BitVec 24 := w.extractLsb' 0 24
/-- b = w[0]. -/
def bField (w : Word) : Bool := w.getLsbD 0

/-- `i` where the must-be-zero bits are zero, else the rejection of R85 (b). -/
def ifZero (zero : Bool) (i : Instr) : Except DecodeError Instr :=
  if zero then .ok i else .error .mustBeZero

/-- Format Z of R81: w[23:0] = 0. -/
def formatZ (w : Word) (i : Instr) : Except DecodeError Instr :=
  ifZero (nField w == 0#24) i

/-- Format W of R81: w[23:16] = 0. -/
def formatW (w : Word) : Except DecodeError Instr :=
  ifZero (w.extractLsb' 16 8 == 0#8) (.wreg (addrField w) (valField w))

/-- Format S of R81 for CHSET: bit 23, the op field and w[15:8] are zero (R84, R85). -/
def formatSChset (w : Word) : Except DecodeError Instr :=
  ifZero (w.extractLsb' 23 1 == 0#1 && operatorField w == 0#2 && addrField w == 0#8)
    (.chset (chField w) (selField w) (valField w))

/-- Format S of R81 for OPSET: w[15:8] = 0 and sel ≤ 5 (R84, R85). -/
def formatSOpset (w : Word) : Except DecodeError Instr :=
  if addrField w == 0#8 then
    if opSelOk (selField w) then
      .ok (.opset (chField w) (operatorField w) (selField w) (valField w))
    else .error .reservedSelector
  else .error .mustBeZero

/-- Format K of R81 with a mask: w[23:19], w[15:12] and w[7:0] are zero. -/
def formatK (w : Word) (f : BitVec 3 → BitVec 4 → Instr) : Except DecodeError Instr :=
  ifZero (w.extractLsb' 19 5 == 0#5 && w.extractLsb' 12 4 == 0#4 && valField w == 0#8)
    (f (chField w) (maskField w))

/-- Format K of R81 with mask = 0: w[23:19] and w[15:0] are zero. -/
def formatKNoMask (w : Word) (f : BitVec 3 → Instr) : Except DecodeError Instr :=
  ifZero (w.extractLsb' 19 5 == 0#5 && w.extractLsb' 0 16 == 0#16) (f (chField w))

/-- Format B of R81: w[23:1] = 0. -/
def formatB (w : Word) (f : Bool → Instr) : Except DecodeError Instr :=
  ifZero (w.extractLsb' 1 23 == 0#23) (f (bField w))

/-- The decoder (spec/30_encoding.md R84, R85): the command a word is, or why it is none. It looks at the word alone
(R86, R182). -/
def decode (w : Word) : Except DecodeError Instr :=
  match (opField w).toNat with
  | 0x00 => formatZ w .nop
  | 0x01 => formatZ w .creset
  | 0x02 => formatW w
  | 0x03 => formatSChset w
  | 0x04 => formatSOpset w
  | 0x05 => formatK w .keyon
  | 0x06 => formatKNoMask w .keyoff
  | 0x07 => formatKNoMask w .voice
  | 0x08 => formatK w .note
  | 0x10 => formatZ w .rsinit
  | 0x11 => .ok (.gen (nField w))
  | 0x12 => formatB w .run
  | 0x13 => formatB w .play
  | 0x14 => formatZ w .stop
  | _ => .error .unknownOpcode

/-- A field placed in a command word with its lowest bit at `lo`, all other bits zero (R81, R82). -/
def place {k : Nat} (lo : Nat) (field : BitVec k) : Word := field.setWidth 32 <<< lo

/-- A word with its opcode in bits 31:24 and zeros below (R80). -/
def opBits (op : Byte) : Word := place 24 op

/-- The encoder: the opcode and each field of R82 at its place, every must-be-zero bit of R81 zero. -/
def encode : Instr → Word
  | .nop => opBits 0x00#8
  | .creset => opBits 0x01#8
  | .wreg addr val => opBits 0x02#8 ||| place 8 addr ||| place 0 val
  | .chset ch sel val => opBits 0x03#8 ||| place 21 sel ||| place 16 ch ||| place 0 val
  | .opset ch op sel val => opBits 0x04#8 ||| place 21 sel ||| place 19 op ||| place 16 ch ||| place 0 val
  | .keyon ch mask => opBits 0x05#8 ||| place 16 ch ||| place 8 mask
  | .keyoff ch => opBits 0x06#8 ||| place 16 ch
  | .voice ch => opBits 0x07#8 ||| place 16 ch
  | .note ch mask => opBits 0x08#8 ||| place 16 ch ||| place 8 mask
  | .rsinit => opBits 0x10#8
  | .gen n => opBits 0x11#8 ||| place 0 n
  | .run b => opBits 0x12#8 ||| place 0 (BitVec.ofBool b)
  | .play b => opBits 0x13#8 ||| place 0 (BitVec.ofBool b)
  | .stop => opBits 0x14#8

/-- What the host asks of the decoder: the command read from an instruction of `nbits` bits `w`, every bit above
`nbits` zero. A command word crosses the bus whole, so no byte order enters (spec/20_memory.md R60; log 17). -/
def decodeTableWord (nbits w : Nat) : Option Instr :=
  match decode (BitVec.ofNat 32 (w % 2 ^ nbits)) with
  | .ok i => some i
  | .error _ => none

/-! ### The rows of R84 -/

/-- One row of the opcode map (spec/30_encoding.md R84). -/
structure OpcodeRow where
  mnemonic : String
  mtch : Word
  mask : Word
deriving DecidableEq, Repr

/-- The row of a command's mnemonic (R84). -/
def Instr.row : Instr → OpcodeRow
  | .nop => ⟨"NOP", 0x00000000#32, 0xFFFFFFFF#32⟩
  | .creset => ⟨"CRESET", 0x01000000#32, 0xFFFFFFFF#32⟩
  | .wreg _ _ => ⟨"WREG", 0x02000000#32, 0xFFFF0000#32⟩
  | .chset _ _ _ => ⟨"CHSET", 0x03000000#32, 0xFF98FF00#32⟩
  | .opset _ _ _ _ => ⟨"OPSET", 0x04000000#32, 0xFF00FF00#32⟩
  | .keyon _ _ => ⟨"KEYON", 0x05000000#32, 0xFFF8F0FF#32⟩
  | .keyoff _ => ⟨"KEYOFF", 0x06000000#32, 0xFFF8FFFF#32⟩
  | .voice _ => ⟨"VOICE", 0x07000000#32, 0xFFF8FFFF#32⟩
  | .note _ _ => ⟨"NOTE", 0x08000000#32, 0xFFF8F0FF#32⟩
  | .rsinit => ⟨"RSINIT", 0x10000000#32, 0xFFFFFFFF#32⟩
  | .gen _ => ⟨"GEN", 0x11000000#32, 0xFF000000#32⟩
  | .run _ => ⟨"RUN", 0x12000000#32, 0xFFFFFFFE#32⟩
  | .play _ => ⟨"PLAY", 0x13000000#32, 0xFFFFFFFE#32⟩
  | .stop => ⟨"STOP", 0x14000000#32, 0xFFFFFFFF#32⟩

/-- The 14 rows of R84, in its order. -/
def opcodeRows : List OpcodeRow :=
  [Instr.nop, .creset, .wreg 0 0, .chset 0 0 0, .opset 0 0 0 0, .keyon 0 0, .keyoff 0, .voice 0, .note 0 0, .rsinit,
    .gen 0, .run false, .play false, .stop].map Instr.row

/-- The extra constraint of a row: OPSET's sel ≤ 5, none elsewhere (R84). -/
def OpcodeRow.extra (r : OpcodeRow) (w : Word) : Bool :=
  !(r.mtch == 0x04000000#32) || opSelOk (selField w)

/-- A word selects a row iff `(w and mask) = match` and the row's extra constraint holds (R84). -/
def OpcodeRow.selects (r : OpcodeRow) (w : Word) : Bool :=
  (w &&& r.mask == r.mtch) && r.extra w

/-! ### The listing syntax (R87 to R89) -/

/-- CHSET's selector names (R89). -/
def chSelName (sel : BitVec 3) : String :=
  match sel.toNat with
  | 0 => "CON"
  | 1 => "KC"
  | 2 => "KF"
  | 3 => "SENS"
  | k => toString k

/-- OPSET's selector names (R89). -/
def opSelName (sel : BitVec 3) : String :=
  match sel.toNat with
  | 0 => "DTMUL"
  | 1 => "TL"
  | 2 => "KSAR"
  | 3 => "AMD1R"
  | 4 => "DT2D2R"
  | 5 => "D1LRR"
  | k => toString k

/-- The pseudo-instruction `KEYON ch` (R88). -/
def Instr.keyonAll (ch : BitVec 3) : Instr := .keyon ch 0xF#4
/-- The pseudo-instruction `NOTE ch` (R88). -/
def Instr.noteAll (ch : BitVec 3) : Instr := .note ch 0xF#4
/-- The pseudo-instruction `RUN` (R88). -/
def Instr.runBlocking : Instr := .run true
/-- The pseudo-instruction `PLAY` (R88). -/
def Instr.playBlocking : Instr := .play true

/-- A mnemonic with its operands, separated by commas (R87). -/
def listingLine (mnemonic : String) (operands : List String) : String :=
  match operands with
  | [] => mnemonic
  | _ => mnemonic ++ " " ++ String.intercalate ", " operands

/-- A bit as R87 writes it. -/
def bitText (b : Bool) : String := if b then "1" else "0"

/-- The listing line of a command, numbers in decimal (R87). -/
def Instr.listing (i : Instr) : String :=
  listingLine i.row.mnemonic (match i with
    | .wreg addr val => [toString addr.toNat, toString val.toNat]
    | .chset ch sel val => [toString ch.toNat, chSelName sel, toString val.toNat]
    | .opset ch op sel val => [toString ch.toNat, toString op.toNat, opSelName sel, toString val.toNat]
    | .keyon ch mask => [toString ch.toNat, toString mask.toNat]
    | .keyoff ch => [toString ch.toNat]
    | .voice ch => [toString ch.toNat]
    | .note ch mask => [toString ch.toNat, toString mask.toNat]
    | .gen n => [toString n.toNat]
    | .run b => [bitText b]
    | .play b => [bitText b]
    | .nop => []
    | .creset => []
    | .rsinit => []
    | .stop => [])

end Sys2Proof
end

