-- ==== Sys2Proof/Config.lean ====
section
/-! DEFINITION. What is fixed for one machine: the constants of spec/00_scope.md R6, R8, and the external engine CHIP
(R7, R10), which the model leaves open. -/

namespace Sys2Proof

/-- One operation on ChipCore after its last reset: the `chip_write` and `chip_clock` of spec/00_scope.md R10. The
port is 1 bit wide, 0 = address, 1 = data (spec/20_memory.md R61). -/
inductive ChipOp where
  | write (port : BitVec 1) (data : Byte)
  | clock
deriving DecidableEq, Repr

/-- The opaque ChipState of spec/10_state.md R39, as the list of operations since the last `chip_reset`, oldest
first. DEDUCED (log 1): `chip_reset` forgets its argument and the other two functions are deterministic, so every
CHIP's state is a function of this list; `Sys2Proof/Laws/Chip.lean` proves it. -/
abbrev ChipState := List ChipOp

/-- The stereo sample `chip_clock` returns in a ChipState (spec/00_scope.md R10): left and right, each an s32. -/
abbrev ChipSample := ChipState → Word × Word

/-- The values KON_SHIFT may take, 0..4: the position of the operator mask's lowest bit in the key on/off byte
(spec/00_scope.md R7, D19). It is open in the spec, so it is a field of State that no step changes (log 3). -/
abbrev KonShift := Fin 5

namespace Config

/-- CHIP of spec/00_scope.md R7: the sample the external engine returns when it is clocked in the given ChipState.
OPEN in the spec (D35): no body, so a claim about it holds for every engine (log 1). -/
opaque chipSample : ChipSample

/-- The ChipState before the first `chip_reset`: unspecified and never used (spec/10_state.md R39, R42; U16).
No body, so no claim can rest on it (log 13). -/
opaque unresetChip : ChipState

/-- NATIVE_DIV (spec/00_scope.md R6): the native sample rate is the clock frequency over 64. -/
def nativeDiv : Nat := 64

/-- NORM_SCALE (spec/00_scope.md R6). -/
def normScale : Int := 32768

/-- The KON_SHIFT that R7 and D19 take, the document's own layout: the mask in bits 7:4 (log 3). -/
def nominalKonShift : KonShift := 4

/-- KEY_REG (spec/00_scope.md R6): the key on/off register's chip address. -/
def keyReg : Byte := 0x08#8

/-- The first configuration register's chip address (spec/20_memory.md R57, R58). -/
def configBase : Byte := 0x20#8

/-- How many registers one channel has: r = 0..27 (spec/20_memory.md R58, spec/10_state.md R33). -/
def nVoiceRegs : Nat := 28

/-- The nominal clock frequency, CLKFREQ's reset value (spec/00_scope.md R8, spec/10_state.md R28). -/
def nominalClkFreq : Word := 4000000#32

/-- The nominal output rate, OUTRATE's reset value (spec/00_scope.md R8, spec/10_state.md R29). -/
def nominalOutRate : BitVec 24 := 48000#24

end Config

end Sys2Proof
end

