-- ==== Sys2Proof/Machine/State.lean ====
section
/-! DEFINITION. The state of YRS as plain data (spec/10_state.md R20), the reasons a step can stop, and the machine
right after reset (R42). -/

namespace Sys2Proof.Machine

/-- PHASE (spec/10_state.md R37). -/
inductive Phase where
  /-- Waiting for a host access. -/
  | idle
  /-- Inside the generation loop of GEN or RUN. -/
  | gen
  /-- A blocking hand-off is waiting for `sink_done`. -/
  | waitSink
deriving DecidableEq, Repr

/-- The four fault causes (spec/60_exceptions.md R181); code 0, no fault, is `none` of an Option. -/
inductive FaultCause where
  /-- Code 1: the word is no command (R182). -/
  | illcmd
  /-- Code 2: a protocol check failed in strict mode (R183). -/
  | proto
  /-- Code 3: reset found no chip (R184). -/
  | nochip
  /-- Code 4: a sample would be produced with OUTRATE = 0 (R185). -/
  | cfg
deriving DecidableEq, Repr

/-- One entry of the chip transaction history (spec/10_state.md R39): `Reset`, or a `Write(p, d)` or `Clock`. -/
inductive ChipTx where
  | reset
  | op (o : ChipOp)
deriving DecidableEq, Repr

/-- One event of the output history (spec/42_normalizer_sink.md R166). -/
inductive OutEvent where
  /-- One NormalizedSample: two 17-bit two's-complement integers k meaning k / 32768 (R161). -/
  | sample (nl nr : BitVec 17)
  /-- The hand-off of the pending buffer: the rate and the blocking flag (spec/20_memory.md R70). -/
  | play (rate : BitVec 24) (blocking : Bool)
  /-- Cancel in-flight playback. -/
  | stop
  /-- Drop the pending buffer. -/
  | discard
deriving DecidableEq, Repr

/-- The width of a host access (spec/20_memory.md R54). -/
inductive Width where
  | byte
  | half
  | word
deriving DecidableEq, Repr

/-- What a host access does (spec/20_memory.md R50). -/
inductive AccessKind where
  | read
  | write (v : Word)
deriving DecidableEq, Repr

/-- One access of the host to the register bus (spec/20_memory.md R52 to R55). -/
structure HostAccess where
  kind : AccessKind
  width : Width
  offset : Nat
deriving DecidableEq, Repr

/-- The event inputs present at one taking point (spec/10_state.md R41, spec/60_exceptions.md R187). -/
structure Arrivals where
  hwreset : Bool
  abort : Bool
  sinkError : Bool
  sinkDone : Bool
deriving DecidableEq, Repr

/-- A taking point at which no event is present. -/
def Arrivals.quiet : Arrivals := ⟨false, false, false, false⟩

/-- What the bus answers the host (log 8): the data of a read (spec/20_memory.md R52), or the error response to a
narrow or misaligned access (R54). A write that is served gets no entry: it has returned once PHASE is IDLE (R53). -/
inductive BusResponse where
  | data (v : Word)
  | busError
deriving DecidableEq, Repr

/-- VCFG0..VCFG6, the 28 staging bytes (spec/10_state.md R33, spec/20_memory.md R60). -/
structure Staging where
  w0 : Word
  w1 : Word
  w2 : Word
  w3 : Word
  w4 : Word
  w5 : Word
  w6 : Word
deriving DecidableEq, Repr

/-- The complete state of YRS (spec/10_state.md R20), with its inputs as data. -/
structure State where
  /-- The strap CHIP_PRESENT (R41), also STATUS.CHIPOK (R25); no step changes it (log 2). -/
  chipPresent : Bool
  /-- KON_SHIFT, a parameter of every step (spec/00_scope.md R7); no step changes it (log 3). -/
  konShift : KonShift
  /-- The host accesses still to come, the next one first (log 4). -/
  bus : List HostAccess
  /-- The events present at each taking point still to come, the next one first; none after the end (log 5). -/
  arrivals : List Arrivals
  /-- What the bus has answered, oldest first (log 8). -/
  responses : List BusResponse
  /-- CTRL.STRICT (R24). -/
  strict : Bool
  /-- CTRL.RND (R24). -/
  rnd : Bool
  /-- STATUS.FAULT (R25). -/
  fault : Bool
  /-- STATUS.SINKERR (R25). -/
  sinkErr : Bool
  /-- STATUS.CANCEL (R25). -/
  cancel : Bool
  /-- STATUS.CAUSE (R25); `none` is code 0. -/
  cause : Option FaultCause
  /-- STATUS.FREG (R25). -/
  freg : Byte
  /-- FINFO (R26). -/
  finfo : Word
  /-- CLKFREQ (R28). -/
  clkFreq : Word
  /-- OUTRATE's 24 bits (R29). -/
  outRate : BitVec 24
  /-- DURATION, signed Q16.16 seconds (R30). -/
  duration : Word
  /-- ACC, the numerator of the fractional accumulator (R21, R31). -/
  acc : BitVec 30
  /-- HOLD_L (R32). -/
  holdL : Word
  /-- HOLD_R (R32). -/
  holdR : Word
  /-- VCFG (R33). -/
  vcfg : Staging
  /-- KEYED, bit c for channel c (R35). -/
  keyed : BitVec 8
  /-- WRITTEN, bit i for chip register 0x20 + i (R36). -/
  written : BitVec 224
  /-- PHASE (R37). -/
  phase : Phase
  /-- REMAIN (R37). -/
  remain : BitVec 40
  /-- PLAYAFTER (R37). -/
  playAfter : Bool
  /-- PLAYBLK (R37). -/
  playBlk : Bool
  /-- The ChipState (R39). -/
  chip : ChipState
  /-- The chip transaction history, oldest first (R39). -/
  chipHistory : List ChipTx
  /-- The output history, oldest first (R40). -/
  outHistory : List OutEvent
deriving DecidableEq, Repr

/-- Why the MODEL stops with a fault. YRS's own faults (spec/60_exceptions.md R181) are no such stop: they are
recorded in STATUS and the machine goes on. -/
inductive Fault where
  /-- Raised by `genIteration` when an output step would run with OUTRATE = 0, against the precondition of
  spec/41_resampler.md R140. No run from reset reaches it (GEN and RUN refuse OUTRATE = 0 by CFG). Safe (log 12). -/
  | outputStepAtRateZero
deriving DecidableEq, Repr

/-- Why the MODEL refuses a step. -/
inductive Refusal where
  /-- The instruction has no meaning in the model yet; raised by `exec` alone. Safe. -/
  | notModelled (mnemonic : String)
  /-- Raised by `step` for a host access above offset 0xFF, which "do not belong to YRS" (spec/20_memory.md R51;
  spec/93_implementation_defined.md U22 says refuse). Safe (log 9). -/
  | offsetOutsideYrs
deriving DecidableEq, Repr

/-- Seven staging words of zero (spec/10_state.md R33, R42). -/
def Staging.zero : Staging := ⟨0#32, 0#32, 0#32, 0#32, 0#32, 0#32, 0#32⟩

/-- The state right after a power-on hardware reset for either value of the strap and every KON_SHIFT
(spec/10_state.md R42, spec/70_reset_and_hazards.md R211): with no input yet to come and, with the chip, one `Reset`
transaction issued. -/
def State.powerOn (present : Bool) (shift : KonShift) : State where
  chipPresent := present
  konShift := shift
  bus := []
  arrivals := []
  responses := []
  strict := false
  rnd := false
  fault := !present
  sinkErr := false
  cancel := false
  cause := if present then none else some .nochip
  freg := 0#8
  finfo := 0#32
  clkFreq := Config.nominalClkFreq
  outRate := Config.nominalOutRate
  duration := 0#32
  acc := 0#30
  holdL := 0#32
  holdR := 0#32
  vcfg := Staging.zero
  keyed := 0#8
  written := 0#224
  phase := .idle
  remain := 0#40
  playAfter := false
  playBlk := false
  chip := if present then [] else Config.unresetChip
  chipHistory := if present then [.reset] else []
  outHistory := []

/-- The machine right after reset, with the chip present (DESIGN CHOICE: the strap is open in the spec, log 2) and the
KON_SHIFT of 4 that the spec takes (R7, log 3). -/
def State.reset : State := State.powerOn true Config.nominalKonShift

end Sys2Proof.Machine
end

