-- ==== Sys2Proof/Machine/Operands.lean ====
section
/-! DEFINITION. Operand assembly: the chip addresses of spec/20_memory.md R58, the key on/off byte of R59 and the
staging bytes of R60. -/

namespace Sys2Proof.Machine

/-- `kon(ch, m)` of R59: `((m << KON_SHIFT) | ch)[7:0]`. Below KON_SHIFT = 3 the mask's bits overlap the channel's
(log 22). -/
def kon (shift : KonShift) (ch : BitVec 3) (mask : BitVec 4) : Byte :=
  (mask.setWidth 8 <<< shift.val) ||| ch.setWidth 8

/-- The operator mask of a byte written to 0x08: `(v >> KON_SHIFT)[3:0]` (R59). -/
def konMask (shift : KonShift) (v : Byte) : BitVec 4 := (v >>> shift.val).setWidth 4

/-- The channel a byte written to 0x08 names: `v[2:0]` (R59). -/
def konChannel (v : Byte) : BitVec 3 := v.setWidth 3

/-- The per-channel address `0x20 + 8·sel + ch` (R58, R104). -/
def chAddr (ch sel : BitVec 3) : Byte :=
  BitVec.ofNat 8 (0x20 + 8 * sel.toNat + ch.toNat)

/-- The per-operator address `0x40 + 0x20·sel + 8·op + ch` (R58, R105). -/
def opAddr (ch : BitVec 3) (op : BitVec 2) (sel : BitVec 3) : Byte :=
  BitVec.ofNat 8 (0x40 + 0x20 * sel.toNat + 8 * op.toNat + ch.toNat)

/-- The address `0x20 + 8·r + ch` of register index r (R58). -/
def regAddr (r : Nat) (ch : BitVec 3) : Byte :=
  BitVec.ofNat 8 (0x20 + 8 * r + ch.toNat)

/-- `a` is one of the configuration registers 0x20..0xFF (R57). -/
def isConfigReg (a : Byte) : Bool := Config.configBase.ule a

/-- The channel of a configuration register: `a[2:0]` (R58). -/
def addrChannel (a : Byte) : BitVec 3 := a.setWidth 3

/-- The WRITTEN index of a configuration register: `a - 0x20` (spec/10_state.md R36). -/
def writtenIndex (a : Byte) : Nat := a.toNat - 0x20

/-- Word i of the staging buffer, VCFGi for i = 0..6 (spec/10_state.md R33). -/
def Staging.word (v : Staging) (i : Nat) : Word :=
  match i with
  | 0 => v.w0
  | 1 => v.w1
  | 2 => v.w2
  | 3 => v.w3
  | 4 => v.w4
  | 5 => v.w5
  | _ => v.w6

/-- Byte k of the staging buffer, k = 0..27: bits `8·(k mod 4) + 7 : 8·(k mod 4)` of VCFG(k div 4) (R60). -/
def Staging.byte (v : Staging) (k : Nat) : Byte :=
  (v.word (k / 4)).extractLsb' (8 * (k % 4)) 8

/-- The staging buffer with VCFGi replaced (spec/20_memory.md R53). -/
def Staging.setWord (v : Staging) (i : Nat) (x : Word) : Staging :=
  match i with
  | 0 => { v with w0 := x }
  | 1 => { v with w1 := x }
  | 2 => { v with w2 := x }
  | 3 => { v with w3 := x }
  | 4 => { v with w4 := x }
  | 5 => { v with w5 := x }
  | _ => { v with w6 := x }

/-- The 28 register writes of VOICE ch in ascending address order: byte k to `0x20 + 8·k + ch`
(spec/40_register_programmer.md R108). -/
def voiceWrites (ch : BitVec 3) (v : Staging) : List (Byte × Byte) :=
  (List.range Config.nVoiceRegs).map fun k => (regAddr k ch, v.byte k)

/-- The 30 register writes of NOTE ch, mask: key-off, the voice, key-on (R109). -/
def noteWrites (shift : KonShift) (ch : BitVec 3) (mask : BitVec 4) (v : Staging) : List (Byte × Byte) :=
  (Config.keyReg, kon shift ch 0#4) :: (voiceWrites ch v ++ [(Config.keyReg, kon shift ch mask)])

end Sys2Proof.Machine
end

