-- ==== Sys2Proof/Machine/Flags.lean ====
section
/-! DEFINITION. The flags: CTRL and STATUS as the host reads and writes them (spec/10_state.md R24, R25), the cause
codes (spec/60_exceptions.md R181), and the tracking bits KEYED and WRITTEN (spec/10_state.md R35, R36). -/

namespace Sys2Proof.Machine

/-- CTRL as read: STRICT in bit 0, RND in bit 1, zeros above (R24). -/
def State.ctrlWord (s : State) : Word := 0#30 ++ BitVec.ofBool s.rnd ++ BitVec.ofBool s.strict

/-- The codes of R181. -/
def causeCode : Option FaultCause → BitVec 4
  | none => 0#4
  | some .illcmd => 1#4
  | some .proto => 2#4
  | some .nochip => 3#4
  | some .cfg => 4#4

/-- STATUS as read, composed from its fields (R25, spec/20_memory.md R52): FREG, 8 zeros, KEYED, CAUSE, CHIPOK,
CANCEL, SINKERR, FAULT. -/
def State.statusWord (s : State) : Word :=
  s.freg ++ 0#8 ++ s.keyed ++ causeCode s.cause ++ BitVec.ofBool s.chipPresent ++ BitVec.ofBool s.cancel ++
    BitVec.ofBool s.sinkErr ++ BitVec.ofBool s.fault

/-- A host write of v to CTRL (spec/20_memory.md R53). -/
def State.writeCtrl (s : State) (v : Word) : State :=
  { s with strict := v.getLsbD 0, rnd := v.getLsbD 1 }

/-- A host write of v to STATUS: SINKERR and CANCEL are cleared by a 1 (R25). -/
def State.writeStatus (s : State) (v : Word) : State :=
  { s with sinkErr := s.sinkErr && !v.getLsbD 1, cancel := s.cancel && !v.getLsbD 2 }

/-- `fault_o`, equal to STATUS.FAULT at all times (spec/60_exceptions.md R202). -/
def State.faultOut (s : State) : Bool := s.fault

/-- KEYED[c] (R35). -/
def keyedBit (keyed : BitVec 8) (c : BitVec 3) : Bool := keyed.getLsbD c.toNat

/-- KEYED with bit c replaced (R35). -/
def setKeyed (keyed : BitVec 8) (c : BitVec 3) (on : Bool) : BitVec 8 :=
  if on then keyed ||| (1#8 <<< c.toNat) else keyed &&& ~~~(1#8 <<< c.toNat)

/-- WRITTEN with bit i set (R36). -/
def setWritten (written : BitVec 224) (i : Nat) : BitVec 224 := written ||| (1#224 <<< i)

/-- Every one of the 28 bits `WRITTEN[8·r + c]` of channel c is 1 (R36): the voice is fully applied. -/
def voiceApplied (written : BitVec 224) (c : BitVec 3) : Bool :=
  (List.range Config.nVoiceRegs).all fun r => written.getLsbD (8 * r + c.toNat)

/-- Step 3 of `RegWrite` for WRITTEN (spec/20_memory.md R62). -/
def trackWritten (written : BitVec 224) (a : Byte) : BitVec 224 :=
  if isConfigReg a then setWritten written (writtenIndex a) else written

/-- Step 3 of `RegWrite` for KEYED (R62), with the KON_SHIFT the key byte was built with
(spec/70_reset_and_hazards.md R229). -/
def trackKeyed (shift : KonShift) (keyed : BitVec 8) (a v : Byte) : BitVec 8 :=
  if a = Config.keyReg then setKeyed keyed (konChannel v) (konMask shift v != 0#4) else keyed

/-- The two conditions of step 1 of `RegWrite` (R62, R183), whatever STRICT is: (i) a configuration register of a
keyed channel; (ii) a key-on before all 28 registers of the channel are written. -/
def breaksProtocol (shift : KonShift) (keyed : BitVec 8) (written : BitVec 224) (a v : Byte) : Bool :=
  (isConfigReg a && keyedBit keyed (addrChannel a)) ||
    (a == Config.keyReg && konMask shift v != 0#4 && !voiceApplied written (konChannel v))

end Sys2Proof.Machine
end

