-- ==== Sys2Proof/Machine/Ops.lean ====
section
/-! DEFINITION. The shared operations: the chip and sink primitives of spec/00_scope.md R11, `RegWrite`
(spec/20_memory.md R62), fault entry (spec/60_exceptions.md R190), the reset sequence, which is the one way out of a
fault (spec/70_reset_and_hazards.md R211, spec/60_exceptions.md R193), and the hand-off
(spec/42_normalizer_sink.md R163). -/

namespace Sys2Proof.Machine

/-! ### ChipCore's three functions (R10) over the list of operations since the last reset (log 1) -/

/-- `chip_reset`: the result does not depend on the argument. -/
def chipResetFn (_ : ChipState) : ChipState := []

/-- `chip_write`. -/
def chipWriteFn (c : ChipState) (port : BitVec 1) (data : Byte) : ChipState := c ++ [.write port data]

/-- The ChipState after `chip_clock`. -/
def chipClockNext (c : ChipState) : ChipState := c ++ [.clock]

/-- `chip_clock`: the next ChipState and the sample of the engine `chip`. -/
def chipClockFn (chip : ChipSample) (c : ChipState) : ChipState × Word × Word := (chipClockNext c, chip c)

/-! ### The primitives of R11 -/

/-- `ChipReset()`. -/
def State.chipReset (s : State) : State :=
  { s with chip := chipResetFn s.chip, chipHistory := s.chipHistory ++ [.reset] }

/-- `ChipWrite(p, d)`. -/
def State.chipWrite (s : State) (port : BitVec 1) (data : Byte) : State :=
  { s with chip := chipWriteFn s.chip port data, chipHistory := s.chipHistory ++ [.op (.write port data)] }

/-- The state after `ChipClock()`. -/
def State.chipClock (s : State) : State :=
  { s with chip := chipClockNext s.chip, chipHistory := s.chipHistory ++ [.op .clock] }

/-- `Emit(e)`. -/
def State.emit (s : State) (e : OutEvent) : State := { s with outHistory := s.outHistory ++ [e] }

/-! ### Fault entry -/

/-- `raise F(w)` or `raise PROTO(w, a)` (spec/60_exceptions.md R190): the one fault entry, which records and changes
nothing else. `addr` enters FREG for PROTO only. -/
def State.raiseFault (s : State) (cause : FaultCause) (info : Word) (addr : Byte) : State :=
  { s with
    fault := true
    cause := some cause
    finfo := info
    freg := if cause = .proto then addr else 0#8
    phase := .idle }

/-! ### Register writes -/

/-- One logical register write: the address on port 0, then the data on port 1 (spec/20_memory.md R61). -/
def State.portPair (s : State) (a v : Byte) : State := (s.chipWrite 0#1 a).chipWrite 1#1 v

/-- Step 3 of `RegWrite`: tracking, in both modes (spec/20_memory.md R62). -/
def State.track (s : State) (a v : Byte) : State :=
  { s with written := trackWritten s.written a, keyed := trackKeyed s.konShift s.keyed a v }

/-- Step 1 of `RegWrite`: the write raises PROTO (R62, R183). -/
def State.protoViolation (s : State) (a v : Byte) : Bool :=
  s.strict && breaksProtocol s.konShift s.keyed s.written a v

/-- `RegWrite(a, v)` executed for command word w (R62): `.error` is the state after a raised PROTO, where the command
ends; `.ok` the state in which it goes on. -/
def State.regWrite (s : State) (w : Word) (a v : Byte) : Except State State :=
  if s.protoViolation a v then .error (s.raiseFault .proto w a) else .ok ((s.portPair a v).track a v)

/-- `RegWrite`s one after the other (spec/40_register_programmer.md R108, R109): `.error a` where the write to a is the
first to raise PROTO. -/
def State.tryWrites (s : State) (w : Word) : List (Byte × Byte) → Except Byte State
  | [] => .ok s
  | (a, v) :: rest =>
    match s.regWrite w a v with
    | .error _ => .error a
    | .ok t => t.tryWrites w rest

/-- The `RegWrite`s of one command, all or none: where one of them raises PROTO the command has issued no transaction and
changed nothing but the fault record (spec/40_register_programmer.md R113, spec/60_exceptions.md R192; log 22). -/
def State.regWrites (s : State) (w : Word) (ws : List (Byte × Byte)) : Except State State :=
  match s.tryWrites w ws with
  | .error a => .error (s.raiseFault .proto w a)
  | .ok t => .ok t

/-- The command ends, completed or faulted: either way the machine goes on in the state reached (R190). -/
def endCommand : Except State State → Host.Outcome State Fault Refusal
  | .ok s => .next s
  | .error s => .next s

/-! ### Reset -/

/-- Every register and sequencing element at its reset value (spec/10_state.md R42), before the chip is looked at.
The strap, KON_SHIFT, the histories and the host's side (`bus`, `arrivals`, `responses`) are not reset (R7, R39, R40;
log 11). -/
def State.clearRegisters (s : State) (cancel : Bool) : State :=
  { s with
    strict := false, rnd := false, fault := false, sinkErr := false, cancel := cancel, cause := none
    freg := 0#8, finfo := 0#32, clkFreq := Config.nominalClkFreq, outRate := Config.nominalOutRate
    duration := 0#32, acc := 0#30, holdL := 0#32, holdR := 0#32, vcfg := Staging.zero
    keyed := 0#8, written := 0#224, phase := .idle, remain := 0#40, playAfter := false, playBlk := false }

/-- `ResetSequence(cancel)` (spec/70_reset_and_hazards.md R211). Without the chip its ChipState is unspecified
(spec/10_state.md R42; log 13) and NOCHIP is raised (spec/60_exceptions.md R184). -/
def State.resetSequence (s : State) (cancel : Bool) : State :=
  let t := s.clearRegisters cancel
  if s.chipPresent then t.chipReset
  else ({ t with chip := Config.unresetChip } : State).raiseFault .nochip 0#32 0#8

/-! ### Hand-off -/

/-- `HandOff(b)` (spec/42_normalizer_sink.md R163). -/
def State.handOff (s : State) (b : Bool) : State :=
  let t := s.emit (.play s.outRate b)
  { t with phase := if b then .waitSink else .idle }

end Sys2Proof.Machine
end

