-- ==== Sys2Proof/Machine/Programmer.lean ====
section
/-! DEFINITION. The RegisterProgrammer commands (spec/40_register_programmer.md R101 to R109). The command word a fault
records is the instruction's encoding (log 15). -/

namespace Sys2Proof.Machine

/-- A single-write command: one `RegWrite` for the command's own word. -/
def singleWrite (i : Instr) (a v : Byte) (s : State) : Host.Outcome State Fault Refusal :=
  endCommand (s.regWrite (encode i) a v)

/-- ILLCMD raised for the word of a term that is no command (spec/30_encoding.md R85; log 14). -/
def illegalTerm (i : Instr) (s : State) : Host.Outcome State Fault Refusal :=
  .next (s.raiseFault .illcmd (encode i) 0#8)

/-- NOP (R101). -/
def execNop (s : State) : Host.Outcome State Fault Refusal := .next s

/-- CRESET (R102). -/
def execCreset (s : State) : Host.Outcome State Fault Refusal :=
  .next { s.chipReset with keyed := 0#8, written := 0#224 }

/-- WREG addr, val (R103). -/
def execWreg (addr val : Byte) (s : State) : Host.Outcome State Fault Refusal :=
  singleWrite (.wreg addr val) addr val s

/-- CHSET ch, csel, val (R104): ILLCMD where sel ≥ 4. -/
def execChset (ch sel : BitVec 3) (val : Byte) (s : State) : Host.Outcome State Fault Refusal :=
  if chSelOk sel then singleWrite (.chset ch sel val) (chAddr ch sel) val s
  else illegalTerm (.chset ch sel val) s

/-- OPSET ch, op, osel, val (R105): ILLCMD where sel ≥ 6. -/
def execOpset (ch : BitVec 3) (op : BitVec 2) (sel : BitVec 3) (val : Byte) (s : State) :
    Host.Outcome State Fault Refusal :=
  if opSelOk sel then singleWrite (.opset ch op sel val) (opAddr ch op sel) val s
  else illegalTerm (.opset ch op sel val) s

/-- KEYON ch, mask (R106). -/
def execKeyon (ch : BitVec 3) (mask : BitVec 4) (s : State) : Host.Outcome State Fault Refusal :=
  singleWrite (.keyon ch mask) Config.keyReg (kon s.konShift ch mask) s

/-- KEYOFF ch (R107). -/
def execKeyoff (ch : BitVec 3) (s : State) : Host.Outcome State Fault Refusal :=
  singleWrite (.keyoff ch) Config.keyReg (kon s.konShift ch 0#4) s

/-- VOICE ch (R108). -/
def execVoice (ch : BitVec 3) (s : State) : Host.Outcome State Fault Refusal :=
  endCommand (s.regWrites (encode (.voice ch)) (voiceWrites ch s.vcfg))

/-- NOTE ch, mask (R109). -/
def execNote (ch : BitVec 3) (mask : BitVec 4) (s : State) : Host.Outcome State Fault Refusal :=
  endCommand (s.regWrites (encode (.note ch mask)) (noteWrites s.konShift ch mask s.vcfg))

end Sys2Proof.Machine
end

