-- ==== Sys2Proof/Machine/Arith.lean ====
section
/-! DEFINITION. The integer arithmetic of the resampler and the normalizer: spec/41_resampler.md R134, R141, R143 and
spec/42_normalizer_sink.md R160, R161, on unbounded integers (R147: no width of R38 is ever exceeded). -/

namespace Sys2Proof.Machine

/-- `tdiv(a, n)` of R143: the quotient truncated toward zero. -/
def tdiv (a : Int) (n : Nat) : Int := a.sign * ((a.natAbs / n : Nat) : Int)

/-- `rdiv(a, n)` of R143: the quotient rounded to nearest, a tie going away from zero. -/
def rdiv (a : Int) (n : Nat) : Int := a.sign * (((2 * a.natAbs + n) / (2 * n) : Nat) : Int)

/-- `Avg(sum, n)` of R141: truncating with CTRL.RND = 0, rounding with CTRL.RND = 1. -/
def avg (rnd : Bool) (sum : Int) (n : Nat) : Int := if rnd then rdiv sum n else tdiv sum n

/-- `SampleCount(d, R)` of R134 for d > 0. -/
def sampleCount (d rate : Nat) : Nat := (d * rate + 32768) / 65536

/-- `Norm(x)` of R160: the clamp of a raw sample to −32768..32768. -/
def normInt (x : Int) : Int := min (max x (-Config.normScale)) Config.normScale

/-- A normalized channel in the 17-bit two's complement of R161. -/
def norm (x : Word) : BitVec 17 := BitVec.ofInt 17 (normInt x.toInt)

/-- The real value a normalized channel denotes: k / 32768 (R160, R162). -/
def normValue (k : BitVec 17) : Rat := (k.toInt : Rat) / (Config.normScale : Rat)

end Sys2Proof.Machine
end

