-- ==== Sys2Proof/Machine/Events.lean ====
section
/-! DEFINITION. The asynchronous events (spec/60_exceptions.md R187 to R189, R191, R194). -/

namespace Sys2Proof.Machine

/-- `abort` when taken, in any phase and whether or not FAULT = 1 (R188). -/
def State.takeAbort (s : State) : State := ((s.emit .stop).emit .discard).resetSequence true

/-- `hwreset` when taken (spec/70_reset_and_hazards.md R210, R211). -/
def State.takeHwreset (s : State) : State := s.resetSequence false

/-- `sink_error` when taken (R189). -/
def State.takeSinkError (s : State) : State :=
  match s.phase with
  | .gen =>
    ({ s with sinkErr := true, remain := 0#40, playAfter := false, playBlk := false, phase := .idle } : State).emit
      .discard
  | .waitSink => { s with sinkErr := true, phase := .idle }
  | .idle => { s with sinkErr := true }

/-- `sink_done` when taken: it ends a blocking wait and is ignored in any other phase (R194). -/
def State.takeSinkDone (s : State) : State :=
  match s.phase with
  | .waitSink => { s with phase := .idle }
  | .gen => s
  | .idle => s

/-- Some event is present. -/
def Arrivals.any (a : Arrivals) : Bool := a.hwreset || a.abort || a.sinkError || a.sinkDone

/-- The events present at one taking point, in the order of R191 (b): after a hwreset or an abort the others are
lost. -/
def State.takeEvents (s : State) (a : Arrivals) : State :=
  if a.hwreset then s.takeHwreset
  else if a.abort then s.takeAbort
  else
    let t := if a.sinkError then s.takeSinkError else s
    if a.sinkDone then t.takeSinkDone else t

/-- The events present at the next taking point; nothing is present once the list has ended (log 5). -/
def State.nextArrivals (s : State) : Arrivals := s.arrivals.headD Arrivals.quiet

/-- The state with that taking point past. -/
def State.passPoint (s : State) : State := { s with arrivals := s.arrivals.tail }

/-- A taking point (R187): the events present there are taken. -/
def State.takingPoint (s : State) : State := s.passPoint.takeEvents s.nextArrivals

end Sys2Proof.Machine
end

