-- ==== Sys2Proof/Machine/Resampler.lean ====
section
/-! DEFINITION. The Resampler commands (spec/41_resampler.md R131 to R133), the output step (R140 to R142) and one
iteration of the generation phase (R149). The engine is an argument, so that everything here is stated for every CHIP
(spec/00_scope.md R7). -/

namespace Sys2Proof.Machine

/-! ### The output step -/

/-- `den` of R140. -/
def State.den (s : State) : Nat := Config.nativeDiv * s.outRate.toNat

/-- `t` of R140. -/
def State.phaseSum (s : State) : Nat := s.acc.toNat + s.clkFreq.toNat

/-- `n` of R140: the native cycles this step consumes. -/
def State.nativeCycles (s : State) : Nat := s.phaseSum / s.den

/-- ACC after the step (R140). -/
def State.nextAcc (s : State) : BitVec 30 := BitVec.ofNat 30 (s.phaseSum % s.den)

/-- `n` transactions `ChipClock()` with the two running sums of R140: the state, sumL and sumR after them. -/
def clockMany (chip : ChipSample) : Nat → State → Int → Int → State × Int × Int
  | 0, s, sumL, sumR => (s, sumL, sumR)
  | n + 1, s, sumL, sumR =>
    let r := chipClockFn chip s.chip
    clockMany chip n s.chipClock (sumL + r.2.1.toInt) (sumR + r.2.2.toInt)

/-- The clocking and averaging part of R140 for n native cycles: nothing where n = 0 (R142). -/
def State.consume (s : State) (chip : ChipSample) (n : Nat) : State :=
  if n = 0 then s
  else
    let r := clockMany chip n s 0 0
    { r.1 with
      holdL := BitVec.ofInt 32 (avg s.rnd r.2.1 n)
      holdR := BitVec.ofInt 32 (avg s.rnd r.2.2 n) }

/-- The emission that ends an output step (R140). -/
def State.emitHold (s : State) : State := s.emit (.sample (norm s.holdL) (norm s.holdR))

/-- `OutputStep()` (R140). -/
def State.outputStep (s : State) (chip : ChipSample) : State :=
  (State.consume { s with acc := s.nextAcc } chip s.nativeCycles).emitHold

/-- k output steps in sequence. -/
def State.outputSteps (s : State) (chip : ChipSample) : Nat → State
  | 0 => s
  | k + 1 => (s.outputStep chip).outputSteps chip k

/-! ### The generation phase -/

/-- What R149 does when the loop has ended: hand off for RUN, else IDLE. -/
def State.finishGen (s : State) : State :=
  if s.playAfter then State.handOff { s with playAfter := false, playBlk := false } s.playBlk
  else { s with phase := .idle }

/-- The state as R149 leaves it between two iterations: the loop ends when REMAIN has reached 0. -/
def State.loopTest (s : State) : State :=
  if s.phase = .gen ∧ s.remain = 0#40 then s.finishGen else s

/-- One iteration of R149: an output step, `REMAIN <- REMAIN − 1`, the taking point (spec/60_exceptions.md R187), and
the test of the loop. With REMAIN = 0 the loop ends at once (log 19). -/
def State.genIteration (s : State) (chip : ChipSample) : Host.Outcome State Fault Refusal :=
  if s.remain = 0#40 then .next s.finishGen
  else if s.outRate = 0#24 then .fault .outputStepAtRateZero
  else
    let t := s.outputStep chip
    .next (State.takingPoint { t with remain := t.remain - 1#40 }).loopTest

/-- The entry of the generation phase (R132, R133). -/
def State.startGen (s : State) (count : BitVec 40) (playAfter playBlk : Bool) : State :=
  { s with remain := count, playAfter := playAfter, playBlk := playBlk, phase := .gen }

/-! ### The commands -/

/-- RSINIT (R131). -/
def execRsinit (s : State) : Host.Outcome State Fault Refusal :=
  .next { s with acc := 0#30, holdL := 0#32, holdR := 0#32 }

/-- GEN n (R132). -/
def execGen (n : BitVec 24) (s : State) : Host.Outcome State Fault Refusal :=
  if n = 0#24 then .next s
  else if s.outRate = 0#24 then .next (s.raiseFault .cfg (encode (.gen n)) 0#8)
  else .next (s.startGen (n.setWidth 40) false false)

/-- RUN's sample count for DURATION = d > 0 (R134). -/
def State.runCount (s : State) : Nat := sampleCount s.duration.toInt.toNat s.outRate.toNat

/-- RUN b (R133). -/
def execRun (b : Bool) (s : State) : Host.Outcome State Fault Refusal :=
  if s.duration.toInt ≤ 0 then .next s
  else if s.outRate = 0#24 then .next (s.raiseFault .cfg (encode (.run b)) 0#8)
  else if s.runCount = 0 then .next s
  else .next (s.startGen (BitVec.ofNat 40 s.runCount) true b)

end Sys2Proof.Machine
end

