-- ==== Sys2Proof/Machine/Sink.lean ====
section
/-! DEFINITION. The sink commands PLAY and STOP (spec/42_normalizer_sink.md R163, R164) and the pending buffer
(R166). -/

namespace Sys2Proof.Machine

/-- PLAY b (R163). -/
def execPlay (b : Bool) (s : State) : Host.Outcome State Fault Refusal := .next (s.handOff b)

/-- STOP (R164). -/
def execStop (s : State) : Host.Outcome State Fault Refusal := .next (s.emit .stop)

/-- One event's effect on the pending buffer (R166; spec/20_memory.md R70). -/
def bufferAfter (buffer : List (BitVec 17 × BitVec 17)) : OutEvent → List (BitVec 17 × BitVec 17)
  | .sample nl nr => buffer ++ [(nl, nr)]
  | .play _ _ => []
  | .stop => buffer
  | .discard => []

/-- The pending buffer: the samples after the last hand-off or discard of an output history (R166). -/
def pendingBuffer (history : List OutEvent) : List (BitVec 17 × BitVec 17) := history.foldl bufferAfter []

end Sys2Proof.Machine
end

