-- ==== Sys2Proof/Machine/Dispatch.lean ====
section
/-! DEFINITION. One arm per command (spec/40_register_programmer.md R100): the Operation of the command's own rule. -/

namespace Sys2Proof.Machine

/-- The Operation of a command, run on a state in which its word has been accepted (log 20). -/
def exec (i : Instr) (s : State) : Host.Outcome State Fault Refusal :=
  match i with
  | .nop => Sys2Proof.Machine.execNop s
  | .creset => Sys2Proof.Machine.execCreset s
  | .wreg addr val => Sys2Proof.Machine.execWreg addr val s
  | .chset ch sel val => Sys2Proof.Machine.execChset ch sel val s
  | .opset ch op sel val => Sys2Proof.Machine.execOpset ch op sel val s
  | .keyon ch mask => Sys2Proof.Machine.execKeyon ch mask s
  | .keyoff ch => Sys2Proof.Machine.execKeyoff ch s
  | .voice ch => Sys2Proof.Machine.execVoice ch s
  | .note ch mask => Sys2Proof.Machine.execNote ch mask s
  | .rsinit => Sys2Proof.Machine.execRsinit s
  | .gen n => Sys2Proof.Machine.execGen n s
  | .run b => Sys2Proof.Machine.execRun b s
  | .play b => Sys2Proof.Machine.execPlay b s
  | .stop => Sys2Proof.Machine.execStop s

end Sys2Proof.Machine
end

