-- ==== Sys2Proof/Machine/HostBus.lean ====
section
/-! DEFINITION. The host register space HOSTREG: reads, writes, width and alignment (spec/20_memory.md R51 to R55). -/

namespace Sys2Proof.Machine

/-- The value an aligned word read returns (R52; spec/10_state.md R23 to R33): 0 for CMD and every reserved
offset. -/
def State.hostRead (s : State) (offset : Nat) : Word :=
  match offset with
  | 0x00 => s.ctrlWord
  | 0x04 => s.statusWord
  | 0x08 => s.finfo
  | 0x10 => s.clkFreq
  | 0x14 => s.outRate.setWidth 32
  | 0x18 => s.duration
  | 0x1C => s.acc.setWidth 32
  | 0x20 => s.holdL
  | 0x24 => s.holdR
  | 0x40 => s.vcfg.word 0
  | 0x44 => s.vcfg.word 1
  | 0x48 => s.vcfg.word 2
  | 0x4C => s.vcfg.word 3
  | 0x50 => s.vcfg.word 4
  | 0x54 => s.vcfg.word 5
  | 0x58 => s.vcfg.word 6
  | _ => 0#32

/-- The write of VCFGi. -/
def State.writeVcfg (s : State) (i : Nat) (v : Word) : State := { s with vcfg := s.vcfg.setWord i v }

/-- Step 3 of `HostWrite` for every offset but CMD (R53): read-only and reserved offsets are ignored. -/
def State.writeRegister (s : State) (offset : Nat) (v : Word) : State :=
  match offset with
  | 0x00 => s.writeCtrl v
  | 0x04 => s.writeStatus v
  | 0x10 => { s with clkFreq := v }
  | 0x14 => { s with outRate := v.setWidth 24, acc := 0#30 }
  | 0x18 => { s with duration := v }
  | 0x40 => s.writeVcfg 0 v
  | 0x44 => s.writeVcfg 1 v
  | 0x48 => s.writeVcfg 2 v
  | 0x4C => s.writeVcfg 3 v
  | 0x50 => s.writeVcfg 4 v
  | 0x54 => s.writeVcfg 5 v
  | 0x58 => s.writeVcfg 6 v
  | _ => s

/-- CMD's offset (spec/10_state.md R23, R27). -/
def cmdOffset : Nat := 0x0C

/-- What one host access comes to. -/
inductive BusAction where
  /-- The access is over. -/
  | done (s : State)
  /-- A command word was accepted (spec/40_register_programmer.md R100). -/
  | command (w : Word) (s : State)
  /-- The offset is above 0xFF (R51). -/
  | outside

/-- The bus answers the host. -/
def State.respond (s : State) (r : BusResponse) : State := { s with responses := s.responses ++ [r] }

/-- The access is an aligned 32-bit access (R54). -/
def HostAccess.aligned (a : HostAccess) : Bool := a.width == .word && a.offset % 4 == 0

/-- One host access in PHASE = IDLE, in the order of R52, R53 and R54: offset outside YRS; narrow or misaligned; a
read; a write dropped because FAULT = 1; a command; a register write. -/
def State.serveAccess (s : State) (a : HostAccess) : BusAction :=
  if 0xFF < a.offset then .outside
  else if a.aligned then
    match a.kind with
    | .read => .done (s.respond (.data (s.hostRead a.offset)))
    | .write v =>
      if s.fault then .done s
      else if a.offset = cmdOffset then .command v s
      else .done (s.writeRegister a.offset v)
  else .done (s.respond .busError)

/-- PHASE = IDLE with no event present: the host's next access, if there is one, is taken from the bus (R52). -/
def State.serveHost (s : State) : BusAction :=
  match s.bus with
  | [] => .done s
  | a :: rest => State.serveAccess { s with bus := rest } a

end Sys2Proof.Machine
end

