-- ==== Sys2Proof/Machine/Execute.lean ====
section
/-! DEFINITION. From a host access to a command: acceptance and decoding (spec/40_register_programmer.md R100), and the
step of PHASE = IDLE (spec/20_memory.md R52, R53, spec/60_exceptions.md R187). -/

namespace Sys2Proof.Machine

/-- `Execute(w)` (spec/40_register_programmer.md R100): decoding comes first; a word that is no command raises
ILLCMD(w). -/
def execute (w : Word) (s : State) : Host.Outcome State Fault Refusal :=
  match decode w with
  | .ok i => exec i s
  | .error _ => .next (s.raiseFault .illcmd w 0#8)

/-- What a host access comes to, as a step. -/
def runAction : BusAction → Host.Outcome State Fault Refusal
  | .done s => .next s
  | .command w s => execute w s
  | .outside => .refused .offsetOutsideYrs

/-- PHASE = IDLE: the events present are taken, or, where there are none, the host's next access is served. -/
def idleStep (s : State) : Host.Outcome State Fault Refusal :=
  if s.nextArrivals.any then .next s.takingPoint else runAction s.passPoint.serveHost

/-- The host's aligned word write of v to CMD (spec/10_state.md R27). -/
def cmdWrite (v : Word) : HostAccess := ⟨.write v, .word, cmdOffset⟩

end Sys2Proof.Machine
end

