-- ==== Sys2Proof/Machine/Step.lean ====
section
/-! DEFINITION. One step of YRS: in PHASE = IDLE a taking point and then one host access, in PHASE = GEN one iteration
of the generation loop, in PHASE = WAITSINK a taking point (spec/41_resampler.md R149, spec/42_normalizer_sink.md R165,
spec/60_exceptions.md R187; log 7). -/

namespace Sys2Proof.Machine

/-- One step with the engine `chip`. -/
def stepWith (chip : ChipSample) (s : State) : Host.Outcome State Fault Refusal :=
  match s.phase with
  | .idle => idleStep s
  | .gen => s.genIteration chip
  | .waitSink => .next s.takingPoint

/-- One step of the machine, with the open CHIP of the configuration (spec/00_scope.md R7). -/
def step (s : State) : Host.Outcome State Fault Refusal := stepWith Config.chipSample s

/-- The command word put where the next step takes it: the host's next access is a write of it to CMD, the next taking
point is quiet, and the block accepts commands (PHASE = IDLE, FAULT = 0; log 4, log 21). -/
def State.withFetchWord (s : State) (nbits w : Nat) : State :=
  { s with
    bus := cmdWrite (BitVec.ofNat 32 (w % 2 ^ nbits)) :: s.bus
    arrivals := Arrivals.quiet :: s.arrivals
    phase := .idle
    fault := false }

end Sys2Proof.Machine
end

