-- ==== Sys2Proof/Safety.lean ====
section
/-! DEFINITION. What a run is observed by (spec/00_scope.md R13), what holds in every state a run reaches
(spec/10_state.md R43, spec/42_normalizer_sink.md R167), and the protocol precondition on the chip transaction history
(spec/40_register_programmer.md R110). -/

namespace Sys2Proof.Machine

/-! ### Observation -/

/-- The three observations of R13. -/
structure Observation where
  chip : List ChipTx
  out : List OutEvent
  read : List BusResponse
deriving DecidableEq, Repr

/-- What a state shows of its run (R13). -/
def State.observe (s : State) : Observation := ⟨s.chipHistory, s.outHistory, s.responses⟩

/-- The block takes the next command word (spec/40_register_programmer.md R100). -/
def State.accepting (s : State) : Prop := s.phase = .idle ∧ s.fault = false

/-- The host's write to CMD has not returned (spec/20_memory.md R53; log 8). -/
def State.cmdOutstanding (s : State) : Prop := s.phase ≠ .idle

/-- No event is present at the next taking point (spec/60_exceptions.md R187). -/
def State.quiet (s : State) : Prop := s.nextArrivals.any = false

/-! ### Fault records and register writes, as the rules word them -/

/-- The state with a fault recorded and nothing else changed: FAULT, CAUSE, FINFO, FREG, PHASE
(spec/60_exceptions.md R190). -/
def State.recorded (s : State) (cause : FaultCause) (info : Word) (freg : Byte) : State :=
  { s with fault := true, cause := some cause, finfo := info, freg := freg, phase := .idle }

/-- `(v >> KON_SHIFT)[3:0]` of a byte written to 0x08, in arithmetic (spec/20_memory.md R59). -/
def keyMask (shift : KonShift) (v : Byte) : Nat := v.toNat / 2 ^ shift.val % 16

/-- `((m << KON_SHIFT) | ch)[7:0]`, in arithmetic (R59). -/
def keyByte (shift : KonShift) (ch : BitVec 3) (mask : BitVec 4) : Byte :=
  BitVec.ofNat 8 (mask.toNat * 2 ^ shift.val ||| ch.toNat)

/-- The register write (a, v) breaks the protocol in this state: (i) or (ii) of spec/60_exceptions.md R183, in
arithmetic on the address and the byte. -/
def State.Violates (s : State) (a v : Byte) : Prop :=
  (0x20 ≤ a.toNat ∧ s.keyed.getLsbD (a.toNat % 8) = true) ∨
    (a = 0x08#8 ∧ keyMask s.konShift v ≠ 0 ∧ ∃ r, r < 28 ∧ s.written.getLsbD (8 * r + v.toNat % 8) = false)

/-- The chip operations of a list of logical register writes: each is its address on port 0, then its byte on port 1
(spec/20_memory.md R61). -/
def pairOps : List (Byte × Byte) → List ChipOp
  | [] => []
  | (a, v) :: rest => .write 0#1 a :: .write 1#1 v :: pairOps rest

/-- The ChipState after one operation (spec/00_scope.md R10). -/
def chipApply (c : ChipState) : ChipOp → ChipState
  | .write port data => chipWriteFn c port data
  | .clock => chipClockNext c

/-- The ChipState after k native cycles. -/
def chipAfterClocks (c : ChipState) : Nat → ChipState
  | 0 => c
  | k + 1 => chipAfterClocks (chipClockNext c) k

/-- The state with further chip operations issued, each applied to the chip and entered in the history, and nothing else
changed (spec/00_scope.md R11). -/
def State.issued (s : State) (ops : List ChipOp) : State :=
  { s with chip := ops.foldl chipApply s.chip, chipHistory := s.chipHistory ++ ops.map .op }

/-- The state after a list of logical register writes, none of which raised: the pairs issued, WRITTEN and KEYED tracked
write by write, nothing else changed (spec/20_memory.md R62, steps 2 and 3). -/
def State.throughWrites (s : State) (ws : List (Byte × Byte)) : State :=
  { s.issued (pairOps ws) with
    written := ws.foldl (fun b p => trackWritten b p.1) s.written
    keyed := ws.foldl (fun b p => trackKeyed s.konShift b p.1 p.2) s.keyed }

/-- The word is no command: executing it raises ILLCMD with FINFO = the word and does nothing else, in every state
(spec/30_encoding.md R85). -/
def IsIllegal (w : Word) : Prop := ∀ s : State, execute w s = .next (s.recorded .illcmd w 0#8)

/-! ### The registers' invariant -/

/-- R43 (I-a), (I-b), (I-c), with what it takes to keep them in the other phases: a command that is not over has
raised no fault and generates at a rate other than 0. -/
structure State.RegInv (s : State) : Prop where
  /-- (I-a), the strict bound of R145. -/
  accBound : s.outRate ≠ 0#24 → s.acc.toNat < 64 * s.outRate.toNat
  /-- (I-a) at rate 0. -/
  accZero : s.outRate = 0#24 → s.acc = 0#30
  /-- (I-b), in WAITSINK as well. -/
  sequencing : s.phase ≠ .gen → s.remain = 0#40 ∧ s.playAfter = false ∧ s.playBlk = false
  /-- Inside the generation loop there is a sample to come and a rate to produce it at, and the blocking flag belongs to
  a RUN (R132, R133). -/
  generating : s.phase = .gen → s.remain ≠ 0#40 ∧ s.outRate ≠ 0#24 ∧ (s.playAfter = false → s.playBlk = false)
  /-- A command that runs has not faulted (spec/60_exceptions.md R190). -/
  running : s.phase ≠ .idle → s.fault = false
  /-- (I-c). -/
  noRecord : s.fault = false → s.cause = none ∧ s.freg = 0#8 ∧ s.finfo = 0#32
  /-- A fault has one of the four causes, and FREG is for PROTO only (R181). -/
  record : s.fault = true → s.cause ≠ none ∧ (s.cause ≠ some .proto → s.freg = 0#8)
  /-- Without the chip the block is faulted by NOCHIP for ever (R184). -/
  absent : s.chipPresent = false → s.fault = true ∧ s.cause = some .nochip ∧ s.finfo = 0#32
  /-- With the chip no command raises NOCHIP (R184). -/
  present : s.chipPresent = true → s.cause ≠ some .nochip

/-! ### The histories' invariant -/

/-- R43 (I-d): `Write` transactions occur only in adjacent pairs `Write(0, a), Write(1, v)`. -/
def portPairs : List ChipTx → Bool
  | [] => true
  | .reset :: rest => portPairs rest
  | .op .clock :: rest => portPairs rest
  | .op (.write p _) :: .op (.write q _) :: rest => p == 0#1 && q == 1#1 && portPairs rest
  | .op (.write _ _) :: _ => false

/-- One transaction's effect on the ChipState (spec/00_scope.md R11). -/
def chipAfter (c : ChipState) : ChipTx → ChipState
  | .reset => chipResetFn c
  | .op o => chipApply c o

/-- The ChipState a history leads to (spec/10_state.md R39). -/
def chipOf (history : List ChipTx) : ChipState := history.foldl chipAfter Config.unresetChip

/-- What a reader of the chip's port keeps: the address latched last, KEYED and WRITTEN as R35 and R36 define them,
and whether every write so far respected the protocol (R110). -/
structure Tracker where
  latch : Byte
  keyed : BitVec 8
  written : BitVec 224
  clean : Bool
deriving DecidableEq, Repr

/-- One transaction as the tracker sees it for a given KON_SHIFT: a data write is checked against P1 and P2 of R110
and then recorded
(R35, R36); a chip reset removes every record (spec/40_register_programmer.md R111). -/
def Tracker.after (shift : KonShift) (t : Tracker) : ChipTx → Tracker
  | .reset => { t with keyed := 0#8, written := 0#224 }
  | .op .clock => t
  | .op (.write port d) =>
    if port = 0#1 then { t with latch := d }
    else
      { t with
        keyed := trackKeyed shift t.keyed t.latch d
        written := trackWritten t.written t.latch
        clean := t.clean && !breaksProtocol shift t.keyed t.written t.latch d }

/-- The tracker before any transaction. -/
def Tracker.start : Tracker := ⟨0#8, 0#8, 0#224, true⟩

/-- The tracker after a list of transactions. -/
def Tracker.run (shift : KonShift) (t : Tracker) (txs : List ChipTx) : Tracker :=
  txs.foldl (Tracker.after shift) t

/-- The transactions respect P1 and P2 of R110, starting with KEYED and WRITTEN as given. -/
def protocolClean (shift : KonShift) (keyed : BitVec 8) (written : BitVec 224) (txs : List ChipTx) : Bool :=
  (Tracker.run shift ⟨0#8, keyed, written, true⟩ txs).clean

/-- What the chip transaction history says of the rest of the state: (I-d) of R43; the ChipState is the one the history
leads to (R10, R39); KEYED and WRITTEN are what was written since the last chip reset (R35, R36); without the chip there
is no transaction at all (R184). -/
structure State.HistInv (s : State) : Prop where
  pairs : portPairs s.chipHistory = true
  chipIs : s.chipPresent = true → s.chip = chipOf s.chipHistory
  keyedIs : s.keyed = (Tracker.run s.konShift Tracker.start s.chipHistory).keyed
  writtenIs : s.written = (Tracker.run s.konShift Tracker.start s.chipHistory).written
  absentIs : s.chipPresent = false → s.chipHistory = []

/-! ### Amplitude -/

/-- A normalized channel lies in −32768..32768 (spec/42_normalizer_sink.md R161, R167). -/
def ampOk (k : BitVec 17) : Bool := decide (-32768 ≤ k.toInt ∧ k.toInt ≤ 32768)

/-- R167 for one event. -/
def OutEvent.bounded : OutEvent → Bool
  | .sample nl nr => ampOk nl && ampOk nr
  | .play _ _ => true
  | .stop => true
  | .discard => true

/-- R167 for a state: every `OutSample` so far is bounded. -/
def State.AmpInv (s : State) : Prop := s.outHistory.all OutEvent.bounded = true

/-! ### Counting -/

/-- The `Clock` transactions of a history (spec/41_resampler.md R148). -/
def clockCount (history : List ChipTx) : Nat := history.count (.op .clock)

/-- The event is an `OutSample`. -/
def OutEvent.isSample : OutEvent → Bool
  | .sample _ _ => true
  | .play _ _ => false
  | .stop => false
  | .discard => false

/-- The `OutSample` events of a history (R148). -/
def sampleEvents (history : List OutEvent) : Nat := history.countP OutEvent.isSample

/-- k machine steps, stopping at the first stop. -/
def runSteps (k : Nat) (s : State) : Host.Outcome State Fault Refusal := Host.Core.run Sys2Proof.core k s

/-! ### The real-valued accumulator -/

/-- The accumulator's value A = ACC / (64 × OUTRATE) (spec/41_resampler.md R144). -/
def State.accValue (s : State) : Rat := (s.acc.toNat : Rat) / ((64 * s.outRate.toNat : Nat) : Rat)

/-- The increment `native_rate / output_rate` = CLKFREQ / (64 × OUTRATE) (R130, R144). -/
def State.increment (s : State) : Rat := (s.clkFreq.toNat : Rat) / ((64 * s.outRate.toNat : Nat) : Rat)

end Sys2Proof.Machine
end

