-- ==== Sys2Proof/Certificates/Slice0/Obligations.lean ====
section
/-! DEFINITION. The statements for the provers. Each docstring names the rule of spec/ it formalises, or the model's
choice (a log entry) it is about. -/

open Sys2Proof Sys2Proof.Machine

/-! ### Encoding -/

/-- 30_encoding R81, R84: the decoder reads every command back from its encoding, every operand at every value. -/
def Obligations.DecodeUndoesEncode : Prop :=
  ∀ i : Instr, i.wellFormed = true → decode (encode i) = .ok i

/-- 30_encoding R85 ("no ignored bits", D5): an accepted word is the encoding of the command it is read as, so no bit
of it is ignored. -/
def Obligations.EncodeUndoesDecode : Prop :=
  ∀ (w : Word) (i : Instr), decode w = .ok i → encode i = w ∧ i.wellFormed = true

/-- 30_encoding R84: a word is read as a command iff it selects a row, the row is that command's, and it selects no
other. -/
def Obligations.DecoderFollowsTheOpcodeMap : Prop :=
  ∀ w : Word,
    (∀ i, decode w = .ok i →
      i.row ∈ opcodeRows ∧ i.row.selects w = true ∧ ∀ r ∈ opcodeRows, r.selects w = true → r = i.row) ∧
    ((∀ i, decode w ≠ .ok i) → ∀ r ∈ opcodeRows, r.selects w = false)

/-- 95_test_vectors 2.1: words written out there decode to the commands they stand for. -/
def Obligations.SampleWordsDecode : Prop :=
  decode 0x00000000#32 = .ok .nop ∧ decode 0x01000000#32 = .ok .creset ∧
  decode 0x0200284A#32 = .ok (.wreg 0x28#8 0x4A#8) ∧ decode 0x0323004A#32 = .ok (.chset 3#3 1#3 0x4A#8) ∧
  decode 0x043A007F#32 = .ok (.opset 2#3 3#2 1#3 0x7F#8) ∧ decode 0x05070F00#32 = .ok (.keyon 7#3 0xF#4) ∧
  decode 0x06050000#32 = .ok (.keyoff 5#3) ∧ decode 0x07010000#32 = .ok (.voice 1#3) ∧
  decode 0x08000F00#32 = .ok (.note 0#3 0xF#4) ∧ decode 0x10000000#32 = .ok .rsinit ∧
  decode 0x11FFFFFF#32 = .ok (.gen 0xFFFFFF#24) ∧ decode 0x12000001#32 = .ok (.run true) ∧
  decode 0x13000000#32 = .ok (.play false) ∧ decode 0x14000000#32 = .ok .stop

/-! ### Acceptance -/

/-- 30_encoding R85, 60_exceptions R182: a word that selects no row of R84 raises ILLCMD with FINFO = the word, in every
state, and does nothing else. -/
def Obligations.IllegalWordsRaiseIllcmd : Prop :=
  ∀ w : Word, (∀ r ∈ opcodeRows, r.selects w = false) → IsIllegal w

/-- 40_register_programmer R100, 20_memory R53, 60_exceptions R182: with PHASE = IDLE, FAULT = 0 and no event present,
every word the host writes to CMD is executed: it runs as the command it decodes to, and a word that selects no row of
30_encoding R84 raises ILLCMD with FINFO = the word. The step takes the access off `bus` and passes one taking point
(log 4, log 5: the model's own form of the inputs). -/
def Obligations.StepRunsTheDecodedCommand : Prop :=
  ∀ (s u : State) (w : Word) (rest : List HostAccess),
    s.accepting → s.quiet → s.bus = cmdWrite w :: rest → u = { s with bus := rest, arrivals := s.arrivals.tail } →
    step s = execute w u ∧
    (∀ i, decode w = .ok i → step s = exec i u) ∧
    ((∀ r ∈ opcodeRows, r.selects w = false) → step s = .next (u.recorded .illcmd w 0#8))

/-- 60_exceptions R190: fault entry writes the five fields of the fault record and changes nothing else, for every
cause. -/
def Obligations.FaultEntryWritesOnlyTheRecord : Prop :=
  ∀ (s : State) (c : FaultCause) (w : Word) (a : Byte),
    s.raiseFault c w a =
      { s with fault := true, cause := some c, finfo := w, freg := if c = .proto then a else 0#8, phase := .idle } ∧
    causeCode (some .illcmd) = 1#4 ∧ causeCode (some .proto) = 2#4 ∧ causeCode (some .nochip) = 3#4 ∧
    causeCode (some .cfg) = 4#4

/-- 60_exceptions R192: a command that faults has had no effect but the fault record, with FINFO = its word; and a
generation phase never faults. -/
def Obligations.FaultsArePrecise : Prop :=
  (∀ (w : Word) (s t : State), s.fault = false → execute w s = .next t → t.fault = true →
    ∃ c a, t = s.recorded c w a) ∧
  ∀ s t : State, s.RegInv → s.phase = .gen → step s = .next t → t.fault = false

/-! ### RegisterProgrammer commands -/

/-- 20_memory R62, 60_exceptions R183: `RegWrite` in strict mode raises PROTO exactly where (i) or (ii) holds, before any
transaction; elsewhere, and with STRICT = 0 always, it issues the address and then the data, sets the WRITTEN bit of an
address from 0x20 on, sets KEYED of the channel a byte to 0x08 names to (mask ≠ 0), and changes nothing else. -/
def Obligations.RegWriteChecksIssuesAndTracks : Prop :=
  ∀ (s : State) (w : Word) (a v : Byte),
    (s.strict = true → s.Violates a v → s.regWrite w a v = .error (s.recorded .proto w a)) ∧
    ((s.strict = true → ¬ s.Violates a v) →
      ∃ t, s.regWrite w a v = .ok t ∧
        t = { s.issued [.write 0#1 a, .write 1#1 v] with keyed := t.keyed, written := t.written } ∧
        (∀ i, i < 224 → t.written.getLsbD i = (a.toNat == 0x20 + i || s.written.getLsbD i)) ∧
        (∀ c, c < 8 → t.keyed.getLsbD c =
          if a = 0x08#8 ∧ v.toNat % 8 = c then keyMask s.konShift v != 0 else s.keyed.getLsbD c))

/-- 40_register_programmer R101: NOP changes nothing; it is word 0 only. -/
def Obligations.NopDoesNothing : Prop :=
  (∀ s : State, exec .nop s = .next s) ∧ encode .nop = 0x00000000#32 ∧
  ∀ w : Word, w.extractLsb' 24 8 = 0x00#8 → w.extractLsb' 0 24 ≠ 0#24 → IsIllegal w

/-- 40_register_programmer R102: CRESET resets the chip, clears KEYED and WRITTEN and changes nothing else. -/
def Obligations.CresetResetsChipAndTracking : Prop :=
  (∀ s : State, exec .creset s =
    .next { s with
      chip := chipResetFn s.chip, chipHistory := s.chipHistory ++ [.reset], keyed := 0#8, written := 0#224 }) ∧
  encode .creset = 0x01000000#32 ∧
  ∀ w : Word, w.extractLsb' 24 8 = 0x01#8 → w.extractLsb' 0 24 ≠ 0#24 → IsIllegal w

/-- 40_register_programmer R103: WREG writes any address: PROTO where strict mode finds (i) or (ii) of R183; else the
pair is issued, the WRITTEN bit of an address from 0x20 on is set, KEYED follows a byte to 0x08, and nothing else
changes. -/
def Obligations.WregWritesOneRegister : Prop :=
  (∀ (a v : Byte) (s : State),
    (s.strict = true → s.Violates a v → exec (.wreg a v) s = .next (s.recorded .proto (encode (.wreg a v)) a)) ∧
    ((s.strict = true → ¬ s.Violates a v) →
      ∃ t, exec (.wreg a v) s = .next t ∧
        t = { s.issued [.write 0#1 a, .write 1#1 v] with keyed := t.keyed, written := t.written } ∧
        (∀ i, i < 224 → t.written.getLsbD i = (a.toNat == 0x20 + i || s.written.getLsbD i)) ∧
        (∀ c, c < 8 → t.keyed.getLsbD c =
          if a = 0x08#8 ∧ v.toNat % 8 = c then keyMask s.konShift v != 0 else s.keyed.getLsbD c))) ∧
  (∀ a v : Byte, (encode (.wreg a v)).toNat = 0x02000000 + a.toNat * 2 ^ 8 + v.toNat) ∧
  ∀ w : Word, w.extractLsb' 24 8 = 0x02#8 → w.extractLsb' 16 8 ≠ 0#8 → IsIllegal w

/-- 40_register_programmer R104: CHSET writes `0x20 + 8·sel + ch`, sets that register's WRITTEN bit, and changes nothing
else; PROTO in strict mode where the channel is keyed. -/
def Obligations.ChsetWritesItsRegister : Prop :=
  (∀ (ch sel : BitVec 3) (v : Byte) (s : State), sel.toNat ≤ 3 →
    ((s.strict = true → s.keyed.getLsbD ch.toNat = false) →
      exec (.chset ch sel v) s = .next
        { s.issued [.write 0#1 (BitVec.ofNat 8 (0x20 + 8 * sel.toNat + ch.toNat)), .write 1#1 v] with
          written := s.written ||| 1#224 <<< (8 * sel.toNat + ch.toNat) }) ∧
    (s.strict = true → s.keyed.getLsbD ch.toNat = true →
      exec (.chset ch sel v) s = .next
        (s.recorded .proto (encode (.chset ch sel v)) (BitVec.ofNat 8 (0x20 + 8 * sel.toNat + ch.toNat))))) ∧
  (∀ (ch sel : BitVec 3) (v : Byte), (encode (.chset ch sel v)).toNat =
    0x03000000 + sel.toNat * 2 ^ 21 + ch.toNat * 2 ^ 16 + v.toNat) ∧
  ∀ w : Word, w.extractLsb' 24 8 = 0x03#8 →
    (4 ≤ (w.extractLsb' 21 3).toNat ∨ w.extractLsb' 19 2 ≠ 0#2 ∨ w.extractLsb' 8 8 ≠ 0#8) → IsIllegal w

/-- 40_register_programmer R105: OPSET writes `0x40 + 0x20·sel + 8·op + ch`, sets that register's WRITTEN bit, and
changes nothing else; PROTO in strict mode where the channel is keyed. -/
def Obligations.OpsetWritesItsRegister : Prop :=
  (∀ (ch : BitVec 3) (op : BitVec 2) (sel : BitVec 3) (v : Byte) (s : State), sel.toNat ≤ 5 →
    ((s.strict = true → s.keyed.getLsbD ch.toNat = false) →
      exec (.opset ch op sel v) s = .next
        { s.issued
            [.write 0#1 (BitVec.ofNat 8 (0x40 + 0x20 * sel.toNat + 8 * op.toNat + ch.toNat)), .write 1#1 v] with
          written := s.written ||| 1#224 <<< (8 * (4 + 4 * sel.toNat + op.toNat) + ch.toNat) }) ∧
    (s.strict = true → s.keyed.getLsbD ch.toNat = true →
      exec (.opset ch op sel v) s = .next
        (s.recorded .proto (encode (.opset ch op sel v))
          (BitVec.ofNat 8 (0x40 + 0x20 * sel.toNat + 8 * op.toNat + ch.toNat))))) ∧
  (∀ (ch : BitVec 3) (op : BitVec 2) (sel : BitVec 3) (v : Byte), (encode (.opset ch op sel v)).toNat =
    0x04000000 + sel.toNat * 2 ^ 21 + op.toNat * 2 ^ 19 + ch.toNat * 2 ^ 16 + v.toNat) ∧
  ∀ w : Word, w.extractLsb' 24 8 = 0x04#8 →
    (6 ≤ (w.extractLsb' 21 3).toNat ∨ w.extractLsb' 8 8 ≠ 0#8) → IsIllegal w

/-- The model's choice (log 14): a term of Instr that no word decodes to, CHSET with sel ≥ 4 or OPSET with sel ≥ 6,
raises ILLCMD as its encoding does. -/
def Obligations.IllFormedTermsRaiseIllcmd : Prop :=
  (∀ (ch sel : BitVec 3) (v : Byte) (s : State), 4 ≤ sel.toNat →
    exec (.chset ch sel v) s = .next (s.recorded .illcmd (encode (.chset ch sel v)) 0#8)) ∧
  ∀ (ch : BitVec 3) (op : BitVec 2) (sel : BitVec 3) (v : Byte) (s : State), 6 ≤ sel.toNat →
    exec (.opset ch op sel v) s = .next (s.recorded .illcmd (encode (.opset ch op sel v)) 0#8)

/-- From the Operation of 40_register_programmer R106 with 20_memory R59 and R62, for every KON_SHIFT: KEYON writes the
byte `(mask << KON_SHIFT) | ch` to 0x08, with `RegWrite`'s check and tracking of that byte. From KON_SHIFT = 3 on, where
its mask and channel do not overlap, that is what R106 says: KEYED[ch] becomes (mask ≠ 0), nothing else changes, and PROTO
comes in strict mode where the mask is not 0 and a register of the channel is unwritten. For KON_SHIFT < 3 the first
clause is the model's choice, log 22: it follows the Operation against R106's Flags and Faults lines. For KON_SHIFT = 4
the byte is the mask, a zero bit and the channel. -/
def Obligations.KeyonWritesTheKeyByte : Prop :=
  (∀ (ch : BitVec 3) (mask : BitVec 4) (s : State) (v : Byte), v = keyByte s.konShift ch mask →
    (s.strict = true → s.Violates 0x08#8 v →
      exec (.keyon ch mask) s = .next (s.recorded .proto (encode (.keyon ch mask)) 0x08#8)) ∧
    ((s.strict = true → ¬ s.Violates 0x08#8 v) →
      ∃ t, exec (.keyon ch mask) s = .next t ∧
        t = { s.issued [.write 0#1 0x08#8, .write 1#1 v] with keyed := t.keyed } ∧
        ∀ c, c < 8 → t.keyed.getLsbD c =
          if v.toNat % 8 = c then keyMask s.konShift v != 0 else s.keyed.getLsbD c)) ∧
  (∀ (ch : BitVec 3) (mask : BitVec 4) (s : State), 3 ≤ s.konShift.val →
    ((s.strict = true → mask ≠ 0#4 → ∀ r, r < 28 → s.written.getLsbD (8 * r + ch.toNat) = true) →
      ∃ t, exec (.keyon ch mask) s = .next t ∧
        t = { s.issued [.write 0#1 0x08#8, .write 1#1 (keyByte s.konShift ch mask)] with keyed := t.keyed } ∧
        ∀ c, c < 8 → t.keyed.getLsbD c = if c = ch.toNat then mask != 0#4 else s.keyed.getLsbD c) ∧
    (s.strict = true → mask ≠ 0#4 → (∃ r, r < 28 ∧ s.written.getLsbD (8 * r + ch.toNat) = false) →
      exec (.keyon ch mask) s = .next (s.recorded .proto (encode (.keyon ch mask)) 0x08#8))) ∧
  (∀ (ch : BitVec 3) (mask : BitVec 4), keyByte 4 ch mask = mask ++ 0#1 ++ ch ∧
    (encode (.keyon ch mask)).toNat = 0x05000000 + ch.toNat * 2 ^ 16 + mask.toNat * 2 ^ 8) ∧
  ∀ w : Word, w.extractLsb' 24 8 = 0x05#8 →
    (w.extractLsb' 19 5 ≠ 0#5 ∨ w.extractLsb' 12 4 ≠ 0#4 ∨ w.extractLsb' 0 8 ≠ 0#8) → IsIllegal w

/-- From the Operation of 40_register_programmer R107 with 20_memory R59 and R62, for every KON_SHIFT: KEYOFF writes the
byte ch to 0x08, with `RegWrite`'s check and tracking of that byte. From KON_SHIFT = 3 on, where the byte's mask is 0, that
is what R107 says: KEYED[ch] is cleared, nothing else changes, and PROTO never comes. For KON_SHIFT < 3 the first clause
is the model's choice, log 22: it follows the Operation against R107's Flags and Faults lines. -/
def Obligations.KeyoffWritesTheKeyByte : Prop :=
  (∀ (ch : BitVec 3) (s : State) (v : Byte), v = ch.setWidth 8 →
    (s.strict = true → s.Violates 0x08#8 v →
      exec (.keyoff ch) s = .next (s.recorded .proto (encode (.keyoff ch)) 0x08#8)) ∧
    ((s.strict = true → ¬ s.Violates 0x08#8 v) →
      ∃ t, exec (.keyoff ch) s = .next t ∧
        t = { s.issued [.write 0#1 0x08#8, .write 1#1 v] with keyed := t.keyed } ∧
        ∀ c, c < 8 → t.keyed.getLsbD c = if ch.toNat = c then keyMask s.konShift v != 0 else s.keyed.getLsbD c)) ∧
  (∀ (ch : BitVec 3) (s : State), 3 ≤ s.konShift.val →
    ∃ t, exec (.keyoff ch) s = .next t ∧
      t = { s.issued [.write 0#1 0x08#8, .write 1#1 (ch.setWidth 8)] with keyed := t.keyed } ∧
      ∀ c, c < 8 → t.keyed.getLsbD c = if c = ch.toNat then false else s.keyed.getLsbD c) ∧
  (∀ ch : BitVec 3, (encode (.keyoff ch)).toNat = 0x06000000 + ch.toNat * 2 ^ 16) ∧
  ∀ w : Word, w.extractLsb' 24 8 = 0x06#8 →
    (w.extractLsb' 19 5 ≠ 0#5 ∨ w.extractLsb' 0 16 ≠ 0#16) → IsIllegal w

/-- 40_register_programmer R108: VOICE writes staging byte k to `0x20 + 8·k + ch` for k = 0..27 in that order, after
which all 28 WRITTEN bits of the channel are 1, and changes nothing else; PROTO at its first write, and nothing issued,
in strict mode where the channel is keyed. -/
def Obligations.VoiceWritesTheStagedVoice : Prop :=
  (∀ (ch : BitVec 3) (s : State),
    ((s.strict = true → s.keyed.getLsbD ch.toNat = false) →
      ∃ t, exec (.voice ch) s = .next t ∧
        t = { s.issued (pairOps ((List.range 28).map fun k =>
                (BitVec.ofNat 8 (0x20 + 8 * k + ch.toNat), s.vcfg.byte k))) with written := t.written } ∧
        ∀ i, i < 224 → t.written.getLsbD i = (i % 8 == ch.toNat || s.written.getLsbD i)) ∧
    (s.strict = true → s.keyed.getLsbD ch.toNat = true →
      exec (.voice ch) s = .next
        (s.recorded .proto (encode (.voice ch)) (BitVec.ofNat 8 (0x20 + ch.toNat))))) ∧
  (∀ ch : BitVec 3, (encode (.voice ch)).toNat = 0x07000000 + ch.toNat * 2 ^ 16) ∧
  ∀ w : Word, w.extractLsb' 24 8 = 0x07#8 →
    (w.extractLsb' 19 5 ≠ 0#5 ∨ w.extractLsb' 0 16 ≠ 0#16) → IsIllegal w

/-- From the Operation of 40_register_programmer R109 with 20_memory R59 and R62: NOTE writes the key-off byte, the 28
staged bytes and the key-on byte in that order and changes nothing but KEYED and WRITTEN beside. From KON_SHIFT = 3 on,
where the key byte's mask and channel do not overlap, it is as R109 says: it leaves KEYED[ch] = (mask ≠ 0) and never
raises PROTO, in either mode, with no other premise on the state. What it does for KON_SHIFT < 3 is the model's choice,
log 22: it follows the Operation against R109's Flags and Faults lines, so KEYED is what the bytes themselves name, and in
strict mode PROTO comes for the first of the 30 writes that breaks the protocol where it would stand, if there is one, and
then nothing has been issued (R113, 60_exceptions R192). -/
def Obligations.NoteKeysOffConfiguresAndKeysOn : Prop :=
  (∀ (ch : BitVec 3) (mask : BitVec 4) (s : State) (off on : Byte) (ws : List (Byte × Byte)),
    off = ch.setWidth 8 → on = keyByte s.konShift ch mask →
    ws = (0x08#8, off) ::
      ((List.range 28).map (fun k => (BitVec.ofNat 8 (0x20 + 8 * k + ch.toNat), s.vcfg.byte k)) ++ [(0x08#8, on)]) →
    ((s.strict = false ∨ 3 ≤ s.konShift.val) →
      ∃ t, exec (.note ch mask) s = .next t ∧
        t = { s.issued (pairOps ws) with written := t.written, keyed := t.keyed } ∧
        (∀ i, i < 224 → t.written.getLsbD i = (i % 8 == ch.toNat || s.written.getLsbD i)) ∧
        (3 ≤ s.konShift.val →
          ∀ c, c < 8 → t.keyed.getLsbD c = if c = ch.toNat then mask != 0#4 else s.keyed.getLsbD c) ∧
        ∀ c, c < 8 → t.keyed.getLsbD c =
          if on.toNat % 8 = c then keyMask s.konShift on != 0
          else if ch.toNat = c then keyMask s.konShift off != 0
          else s.keyed.getLsbD c) ∧
    (s.strict = true →
      ((∀ done a v rest, ws = done ++ (a, v) :: rest → ¬ (s.throughWrites done).Violates a v) →
        exec (.note ch mask) s = .next (s.throughWrites ws)) ∧
      ∀ done a v rest, ws = done ++ (a, v) :: rest →
        (∀ d b x r, done = d ++ (b, x) :: r → ¬ (s.throughWrites d).Violates b x) →
        (s.throughWrites done).Violates a v →
        exec (.note ch mask) s =
          .next (s.recorded .proto (encode (.note ch mask)) a))) ∧
  (∀ (ch : BitVec 3) (mask : BitVec 4),
    (encode (.note ch mask)).toNat = 0x08000000 + ch.toNat * 2 ^ 16 + mask.toNat * 2 ^ 8) ∧
  ∀ w : Word, w.extractLsb' 24 8 = 0x08#8 →
    (w.extractLsb' 19 5 ≠ 0#5 ∨ w.extractLsb' 12 4 ≠ 0#4 ∨ w.extractLsb' 0 8 ≠ 0#8) → IsIllegal w

/-- 60_exceptions R200: for every command, strict mode either raises PROTO, and does nothing else, or behaves as the other
mode does. -/
def Obligations.StrictModeOnlyAddsTheFault : Prop :=
  ∀ (i : Instr) (s : State),
    (∃ a, exec i { s with strict := true } =
      .next (State.recorded { s with strict := true } .proto (encode i) a)) ∨
    ∃ t, exec i { s with strict := false } = .next t ∧ exec i { s with strict := true } = .next { t with strict := true }

/-- 40_register_programmer R110: in strict mode every step appends to the chip history only transactions that respect
P1 and P2, judged from KEYED and WRITTEN as they stand before the step. -/
def Obligations.StrictStepsObeyTheProtocol : Prop :=
  ∀ s t : State, s.strict = true → step s = .next t →
    ∃ txs, t.chipHistory = s.chipHistory ++ txs ∧ protocolClean s.konShift s.keyed s.written txs = true

/-! ### Resampler commands -/

/-- 41_resampler R131: RSINIT clears ACC and HOLD and changes nothing else, the chip included. -/
def Obligations.RsinitClearsTheResampler : Prop :=
  (∀ s : State, exec .rsinit s = .next { s with acc := 0#30, holdL := 0#32, holdR := 0#32 }) ∧
  encode .rsinit = 0x10000000#32 ∧
  ∀ w : Word, w.extractLsb' 24 8 = 0x10#8 → w.extractLsb' 0 24 ≠ 0#24 → IsIllegal w

/-- 41_resampler R132: GEN 0 is a no-op whatever OUTRATE is; GEN n with OUTRATE = 0 raises CFG; else the generation
phase begins with REMAIN = n. -/
def Obligations.GenAcceptsItsCount : Prop :=
  (∀ (n : BitVec 24) (s : State),
    (n = 0#24 → exec (.gen n) s = .next s) ∧
    (n ≠ 0#24 → s.outRate = 0#24 → exec (.gen n) s = .next (s.recorded .cfg (encode (.gen n)) 0#8)) ∧
    (n ≠ 0#24 → s.outRate ≠ 0#24 → exec (.gen n) s =
      .next { s with remain := n.setWidth 40, playAfter := false, playBlk := false, phase := .gen })) ∧
  ∀ n : BitVec 24, (encode (.gen n)).toNat = 0x11000000 + n.toNat

/-- 41_resampler R133: a degenerate duration or a zero count is a no-op, tested before OUTRATE; a positive duration
with OUTRATE = 0 raises CFG; else the generation phase begins with REMAIN the whole count, which u40 holds (R134). -/
def Obligations.RunAcceptsItsCount : Prop :=
  (∀ (b : Bool) (s : State),
    (s.duration.toInt ≤ 0 → exec (.run b) s = .next s) ∧
    (0 < s.duration.toInt → s.outRate = 0#24 → exec (.run b) s = .next (s.recorded .cfg (encode (.run b)) 0#8)) ∧
    (0 < s.duration.toInt → s.outRate ≠ 0#24 → s.duration.toNat * s.outRate.toNat + 32768 < 65536 →
      exec (.run b) s = .next s) ∧
    (0 < s.duration.toInt → s.outRate ≠ 0#24 → 65536 ≤ s.duration.toNat * s.outRate.toNat + 32768 →
      ∃ t, exec (.run b) s = .next t ∧
        t = { s with remain := t.remain, playAfter := true, playBlk := b, phase := .gen } ∧
        t.remain.toNat = (s.duration.toNat * s.outRate.toNat + 32768) / 65536)) ∧
  (∀ b : Bool, (encode (.run b)).toNat = 0x12000000 + b.toNat) ∧
  ∀ w : Word, w.extractLsb' 24 8 = 0x12#8 → w.extractLsb' 1 23 ≠ 0#23 → IsIllegal w

/-- 41_resampler R134: the count is `(d × R + 32768) div 65536`, which is D × R rounded to the nearest integer, a tie
going up, where D = d / 65536; it fits REMAIN. -/
def Obligations.SampleCountRoundsTiesUp : Prop :=
  ∀ d rate : Nat, 0 < d →
    sampleCount d rate = (d * rate + 32768) / 65536 ∧
    (sampleCount d rate : Int) = ⌊(d : Rat) / 65536 * (rate : Rat) + 1 / 2⌋ ∧
    (d < 2 ^ 31 → rate < 2 ^ 24 →
      d * rate + 32768 < 2 ^ 55 ∧ sampleCount d rate ≤ 549755780864 ∧ sampleCount d rate < 2 ^ 40)

/-- 41_resampler R132, R149: where no event intervenes, GEN n is exactly n output steps in sequence, then IDLE. The
machine takes one step for each (log 7), each passing one taking point (log 5). -/
def Obligations.GenRunsToItsEnd : Prop :=
  ∀ (n : BitVec 24) (s : State), n ≠ 0#24 → s.outRate ≠ 0#24 →
    (∀ a ∈ s.arrivals.take n.toNat, a.any = false) →
    ∃ u, exec (.gen n) s = .next u ∧
      runSteps n.toNat u = .next
        { s.outputSteps Config.chipSample n.toNat with
          phase := .idle, remain := 0#40, playAfter := false, playBlk := false, arrivals := s.arrivals.drop n.toNat }

/-- 41_resampler R133, R149: where no event intervenes, RUN b is exactly its count of output steps and then the
hand-off with flag b, which waits for the sink iff b = 1. The machine takes one step for each output step (log 7). -/
def Obligations.RunHandsOffAtItsEnd : Prop :=
  ∀ (b : Bool) (s : State) (n : Nat), 0 < s.duration.toInt → s.outRate ≠ 0#24 →
    n = (s.duration.toNat * s.outRate.toNat + 32768) / 65536 → n ≠ 0 →
    (∀ a ∈ s.arrivals.take n, a.any = false) →
    ∃ u, exec (.run b) s = .next u ∧
      runSteps n u = .next
        { s.outputSteps Config.chipSample n with
          phase := if b then .waitSink else .idle
          remain := 0#40, playAfter := false, playBlk := false
          arrivals := s.arrivals.drop n
          outHistory := (s.outputSteps Config.chipSample n).outHistory ++ [.play s.outRate b] }

/-- 41_resampler R132: `GEN a; GEN b` leaves the machine as `GEN (a + b)` does where a + b < 2^24. -/
def Obligations.ConsecutiveGensCompose : Prop :=
  ∀ (a b : BitVec 24) (s : State), s.accepting → s.arrivals = [] → s.outRate ≠ 0#24 →
    a ≠ 0#24 → b ≠ 0#24 → a.toNat + b.toNat < 2 ^ 24 →
    runSteps (a.toNat + b.toNat + 2) { s with bus := [cmdWrite (encode (.gen a)), cmdWrite (encode (.gen b))] } =
      runSteps (a.toNat + b.toNat + 1) { s with bus := [cmdWrite (encode (.gen (a + b)))] }

/-! ### The output step -/

/-- 41_resampler R140: one output step, for every engine: ACC is the remainder, exactly n = (ACC + CLKFREQ) div
(64 × OUTRATE) native cycles are clocked, HOLD is the average of their samples (or, with n = 0, as it was), truncated
with CTRL.RND = 0 and rounded with CTRL.RND = 1 (R141), and one sample is emitted; nothing else changes. -/
def Obligations.OutputStepConsumesAndEmits : Prop :=
  ∀ (chip : ChipSample) (s t : State) (n : Nat), s.outRate ≠ 0#24 → t = s.outputStep chip →
    n = (s.acc.toNat + s.clkFreq.toNat) / (64 * s.outRate.toNat) →
    t = { s with
          acc := t.acc, holdL := t.holdL, holdR := t.holdR
          chip := chipAfterClocks s.chip n
          chipHistory := s.chipHistory ++ List.replicate n (.op .clock)
          outHistory := s.outHistory ++ [.sample (norm t.holdL) (norm t.holdR)] } ∧
      t.acc.toNat = (s.acc.toNat + s.clkFreq.toNat) % (64 * s.outRate.toNat) ∧
      (n = 0 → t.holdL = s.holdL ∧ t.holdR = s.holdR) ∧
      (0 < n →
        ∀ sumL sumR : Int,
          sumL = ((List.range n).map fun k => (chipClockFn chip (chipAfterClocks s.chip k)).2.1.toInt).sum →
          sumR = ((List.range n).map fun k => (chipClockFn chip (chipAfterClocks s.chip k)).2.2.toInt).sum →
          t.holdL.toInt = (if s.rnd then rdiv sumL n else tdiv sumL n) ∧
          t.holdR.toInt = (if s.rnd then rdiv sumR n else tdiv sumR n))

/-- 41_resampler R144: the integer step is the document's real-valued algorithm exactly: n is the floor of A plus the
increment, and the new A is its fractional part. -/
def Obligations.OutputStepIsTheRealAlgorithm : Prop :=
  ∀ (chip : ChipSample) (s : State), s.outRate ≠ 0#24 →
    (s.nativeCycles : Int) = ⌊s.accValue + s.increment⌋ ∧
      (s.outputStep chip).accValue = Int.fract (s.accValue + s.increment)

/-- 41_resampler R148 (a), (b): k output steps from ACC = a0 clock the chip exactly (a0 + k × CLKFREQ) div
(64 × OUTRATE) times, leave the remainder in ACC, and emit exactly k samples. -/
def Obligations.StepsCountCyclesExactly : Prop :=
  ∀ (chip : ChipSample) (s : State) (k : Nat), s.outRate ≠ 0#24 → s.acc.toNat < 64 * s.outRate.toNat →
    clockCount (s.outputSteps chip k).chipHistory =
      clockCount s.chipHistory + (s.acc.toNat + k * s.clkFreq.toNat) / (64 * s.outRate.toNat) ∧
    (s.outputSteps chip k).acc.toNat = (s.acc.toNat + k * s.clkFreq.toNat) % (64 * s.outRate.toNat) ∧
    sampleEvents (s.outputSteps chip k).outHistory = sampleEvents s.outHistory + k

/-- 41_resampler R148 (c): with CLKFREQ = 64 × OUTRATE and ACC = 0 every step clocks the chip once, ACC stays 0 and
HOLD is the chip's sample, in both RND modes. -/
def Obligations.PassThroughIsTheIdentity : Prop :=
  ∀ (chip : ChipSample) (s : State), s.outRate ≠ 0#24 → s.clkFreq.toNat = 64 * s.outRate.toNat → s.acc = 0#30 →
    s.outputStep chip =
      { s.issued [.clock] with
        holdL := (chipClockFn chip s.chip).2.1
        holdR := (chipClockFn chip s.chip).2.2
        outHistory := s.outHistory ++
          [.sample (norm (chipClockFn chip s.chip).2.1) (norm (chipClockFn chip s.chip).2.2)] }

/-- 41_resampler R142: a step consumes no native cycle exactly when ACC + CLKFREQ < 64 × OUTRATE, and then repeats the
held pair and changes nothing but ACC. -/
def Obligations.SampleAndHoldRepeats : Prop :=
  ∀ (chip : ChipSample) (s : State), s.outRate ≠ 0#24 →
    (s.nativeCycles = 0 ↔ s.acc.toNat + s.clkFreq.toNat < 64 * s.outRate.toNat) ∧
    (s.acc.toNat + s.clkFreq.toNat < 64 * s.outRate.toNat →
      s.outputStep chip =
        { s with
          acc := BitVec.ofNat 30 (s.acc.toNat + s.clkFreq.toNat)
          outHistory := s.outHistory ++ [.sample (norm s.holdL) (norm s.holdR)] })

/-- 41_resampler R143: the two divisions by their formulas, `tdiv` the quotient truncated toward zero, `rdiv` the
quotient rounded to nearest, a tie going away from zero; neither overflows. -/
def Obligations.DivisionsRoundAsStated : Prop :=
  ∀ (a : Int) (n : Nat), 0 < n →
    tdiv a n = a.sign * ((a.natAbs / n : Nat) : Int) ∧
    rdiv a n = a.sign * (((2 * a.natAbs + n) / (2 * n) : Nat) : Int) ∧
    (tdiv a n = if 0 ≤ a then ⌊(a : Rat) / n⌋ else ⌈(a : Rat) / n⌉) ∧
    (rdiv a n = if 0 ≤ a then ⌊(a : Rat) / n + 1 / 2⌋ else ⌈(a : Rat) / n - 1 / 2⌉) ∧
    (tdiv a n).natAbs ≤ a.natAbs ∧ (rdiv a n).natAbs ≤ a.natAbs ∧
    avg false a n = tdiv a n ∧ avg true a n = rdiv a n

/-- 41_resampler R147: den, t, n and the sums stay inside u30, u33, u27 and s64 at every programmable setting (R145 is
the premise on ACC), so a model may use unbounded integers, as this one does (log 16). -/
def Obligations.DatapathNeverOverflows : Prop :=
  ∀ (s : State) (samples : List Word), s.outRate ≠ 0#24 → s.acc.toNat < 64 * s.outRate.toNat →
    samples.length = s.nativeCycles →
    64 ≤ s.den ∧ s.den < 2 ^ 30 ∧ s.acc.toNat < s.den ∧ s.phaseSum < 2 ^ 33 ∧
      s.nativeCycles ≤ s.phaseSum / 64 ∧ s.nativeCycles < 2 ^ 27 ∧
      ((samples.map BitVec.toInt).sum).natAbs ≤ s.nativeCycles * 2 ^ 31 ∧ s.nativeCycles * 2 ^ 31 < 2 ^ 58

/-- 42_normalizer_sink R160, R161: the normalized value is an integer in 17-bit two's complement, the raw value clamped
to −32768..32768; the value it denotes is the raw value scaled by 1/32768 and then clamped to [−1, 1]. -/
def Obligations.NormalizerScalesAndClamps : Prop :=
  ∀ x : Word, (norm x).toInt = min (max x.toInt (-32768)) 32768 ∧
    normValue (norm x) = ((norm x).toInt : Rat) / 32768 ∧
    normValue (norm x) = min (max ((x.toInt : Rat) / 32768) (-1)) 1

/-! ### Sink commands -/

/-- 42_normalizer_sink R163: PLAY b emits `OutPlay(OUTRATE, b)` and waits for the sink iff b = 1; nothing else changes,
and OUTRATE = 0 is no fault. -/
def Obligations.PlayHandsOff : Prop :=
  (∀ (b : Bool) (s : State), exec (.play b) s =
    .next { s with outHistory := s.outHistory ++ [.play s.outRate b], phase := if b then .waitSink else .idle }) ∧
  (∀ b : Bool, (encode (.play b)).toNat = 0x13000000 + b.toNat) ∧
  ∀ w : Word, w.extractLsb' 24 8 = 0x13#8 → w.extractLsb' 1 23 ≠ 0#23 → IsIllegal w

/-- 42_normalizer_sink R164: STOP emits `OutStop` and changes nothing else. -/
def Obligations.StopCancelsPlayback : Prop :=
  (∀ s : State, exec .stop s = .next { s with outHistory := s.outHistory ++ [.stop] }) ∧
  encode .stop = 0x14000000#32 ∧
  ∀ w : Word, w.extractLsb' 24 8 = 0x14#8 → w.extractLsb' 0 24 ≠ 0#24 → IsIllegal w

/-! ### Reset and the invariants -/

/-- 10_state R42: what a hardware reset (`t = s.takeHwreset`) and an abort (`t = s.takeAbort`) leave in every element,
for both values of the strap, and what STATUS reads then. -/
def Obligations.ResetLeavesTheStatedValues : Prop :=
  ∀ s t : State, (t = s.takeHwreset ∨ t = s.takeAbort) →
    t.strict = false ∧ t.rnd = false ∧ t.fault = (!s.chipPresent) ∧
    t.cause = (if s.chipPresent then none else some .nochip) ∧ t.sinkErr = false ∧
    s.takeHwreset.cancel = false ∧ s.takeAbort.cancel = true ∧ t.chipPresent = s.chipPresent ∧
    t.konShift = s.konShift ∧ t.freg = 0#8 ∧ t.finfo = 0#32 ∧ t.keyed = 0#8 ∧ t.written = 0#224 ∧
    t.clkFreq.toNat = 4000000 ∧ t.outRate.toNat = 48000 ∧ t.duration = 0#32 ∧ t.acc = 0#30 ∧
    t.holdL = 0#32 ∧ t.holdR = 0#32 ∧ (∀ k, k < 28 → t.vcfg.byte k = 0#8) ∧
    t.phase = .idle ∧ t.remain = 0#40 ∧ t.playAfter = false ∧ t.playBlk = false ∧
    (s.chipPresent = true → t.chip = chipResetFn s.chip) ∧
    t.chipHistory = s.chipHistory ++ (if s.chipPresent then [.reset] else []) ∧
    s.takeHwreset.outHistory = s.outHistory ∧ s.takeAbort.outHistory = s.outHistory ++ [.stop, .discard] ∧
    s.takeHwreset.statusWord = (if s.chipPresent then 0x00000008#32 else 0x00000031#32) ∧
    s.takeAbort.statusWord = (if s.chipPresent then 0x0000000C#32 else 0x00000035#32)

/-- 70_reset_and_hazards R211, 60_exceptions R188, R191: a hwreset or an abort taken in IDLE or WAITSINK leaves the
power-on state with CANCEL telling them apart, the histories extended and the host's side untouched (log 11); a hwreset
goes before an abort, and the other events present are lost. -/
def Obligations.ResetEventsGiveThePowerOnState : Prop :=
  ∀ s : State, s.phase ≠ .gen →
    (s.nextArrivals.hwreset = true → step s = .next
      { State.powerOn s.chipPresent s.konShift with
        bus := s.bus, arrivals := s.arrivals.tail, responses := s.responses
        chipHistory := s.chipHistory ++ (if s.chipPresent then [.reset] else [])
        outHistory := s.outHistory }) ∧
    (s.nextArrivals.hwreset = false → s.nextArrivals.abort = true → step s = .next
      { State.powerOn s.chipPresent s.konShift with
        cancel := true
        bus := s.bus, arrivals := s.arrivals.tail, responses := s.responses
        chipHistory := s.chipHistory ++ (if s.chipPresent then [.reset] else [])
        outHistory := s.outHistory ++ [.stop, .discard] })

/-- The invariants hold at power-on, for both values of the strap and every KON_SHIFT. -/
def Obligations.PowerOnMeetsTheInvariants : Prop :=
  ∀ (present : Bool) (shift : KonShift), (State.powerOn present shift).RegInv ∧ (State.powerOn present shift).HistInv ∧
    (State.powerOn present shift).AmpInv

/-- 10_state R43 (I-a), (I-b), (I-c): every step keeps the registers' invariant. -/
def Obligations.StepsKeepTheRegisterInvariant : Prop :=
  ∀ s t : State, s.RegInv → step s = .next t → t.RegInv

/-- 10_state R43 (I-d), R35, R36, R39: every step keeps the histories' invariant: the chip history is made of whole
address-data pairs, and the ChipState, KEYED and WRITTEN are what it says. -/
def Obligations.StepsKeepTheHistoryInvariant : Prop :=
  ∀ s t : State, s.RegInv → s.HistInv → step s = .next t → t.HistInv

/-- 42_normalizer_sink R167: every step keeps every emitted sample in [−1, 1]. -/
def Obligations.StepsKeepSamplesBounded : Prop :=
  ∀ s t : State, s.AmpInv → step s = .next t → t.AmpInv

/-- Where the model stops: a refusal is an access above offset 0xFF (log 9), taken in IDLE with no event present, and
nothing else; a state that meets the registers' invariant never faults (log 12). -/
def Obligations.StepStopsOnlyOutsideYrs : Prop :=
  ∀ s : State,
    (∀ r, step s = .refused r ↔
      r = .offsetOutsideYrs ∧ s.phase = .idle ∧ s.quiet ∧ ∃ a rest, s.bus = a :: rest ∧ 0xFF < a.offset) ∧
    (s.RegInv → ∀ f, step s ≠ .fault f)

/-! ### Events -/

/-- 60_exceptions R189, R191: a sink_error taken in IDLE or WAITSINK sets SINKERR, ends a wait, and changes nothing
else; a sink_done present with it is ignored. -/
def Obligations.SinkErrorEndsTheWait : Prop :=
  ∀ s : State, s.phase ≠ .gen → s.nextArrivals.hwreset = false → s.nextArrivals.abort = false →
    s.nextArrivals.sinkError = true →
    step s = .next { s with sinkErr := true, phase := .idle, arrivals := s.arrivals.tail }

/-- 42_normalizer_sink R165, 60_exceptions R194: the wait goes on while no event comes, and sink_done ends it and
changes nothing else; in any other phase a sink_done leaves no trace: in IDLE the step only passes the taking point
(log 5, log 7), in GEN the iteration is the one that meets no event. -/
def Obligations.WaitEndsOnlyByAnEvent : Prop :=
  (∀ s : State, s.phase = .waitSink → s.quiet → step s = .next { s with arrivals := s.arrivals.tail }) ∧
  ∀ s : State, s.nextArrivals.hwreset = false → s.nextArrivals.abort = false → s.nextArrivals.sinkError = false →
    s.nextArrivals.sinkDone = true →
    (s.phase = .waitSink → step s = .next { s with phase := .idle, arrivals := s.arrivals.tail }) ∧
    (s.phase = .idle → step s = .next { s with arrivals := s.arrivals.tail }) ∧
    (s.phase = .gen → s.remain ≠ 0#40 → step s = step { s with arrivals := Arrivals.quiet :: s.arrivals.tail })

/-- 60_exceptions R187, R188, R189, R191, 70_reset_and_hazards R210: in PHASE = GEN a hwreset, an abort or a sink_error
is taken only after the whole output step and REMAIN's decrement, in that order of precedence; the sink_error drops the
attempt's samples and keeps ACC, HOLD and the chip as the step left them. -/
def Obligations.EventsWaitForTheOutputStep : Prop :=
  ∀ s u : State, s.phase = .gen → s.remain ≠ 0#40 → s.outRate ≠ 0#24 →
    u = { s.outputStep Config.chipSample with remain := s.remain - 1#40, arrivals := s.arrivals.tail } →
    (s.nextArrivals.hwreset = true → step s = .next u.takeHwreset) ∧
    (s.nextArrivals.hwreset = false → s.nextArrivals.abort = true → step s = .next u.takeAbort) ∧
    (s.nextArrivals.hwreset = false → s.nextArrivals.abort = false → s.nextArrivals.sinkError = true →
      step s = .next
        { u with
          sinkErr := true, remain := 0#40, playAfter := false, playBlk := false, phase := .idle
          outHistory := u.outHistory ++ [.discard] })

/-- 60_exceptions R193: while FAULT = 1 and no hwreset or abort comes, a step changes nothing but SINKERR and the
host's side. -/
def Obligations.FaultIsStickyUntilReset : Prop :=
  ∀ s t : State, s.phase = .idle → s.fault = true → s.nextArrivals.hwreset = false → s.nextArrivals.abort = false →
    step s = .next t →
    t = { s with bus := t.bus, arrivals := t.arrivals, responses := t.responses, sinkErr := t.sinkErr }

/-! ### The host's side -/

/-- 20_memory R52, R53: while PHASE ≠ IDLE the host has no move: no access is served and nothing is answered. -/
def Obligations.BusyBlockServesNoAccess : Prop :=
  ∀ s t : State, s.phase ≠ .idle → step s = .next t → t.bus = s.bus ∧ t.responses = s.responses

/-- 20_memory R52, R55: an aligned word read is answered with the register's value, faulted or not, and changes
nothing. -/
def Obligations.ReadsReturnRegistersAndChangeNothing : Prop :=
  ∀ (s : State) (offset : Nat) (rest : List HostAccess), s.phase = .idle → s.quiet →
    s.bus = ⟨.read, .word, offset⟩ :: rest → offset ≤ 0xFF → offset % 4 = 0 →
    ∃ v, step s = .next
        { s with bus := rest, arrivals := s.arrivals.tail, responses := s.responses ++ [.data v] } ∧
      (offset = 0x00 → v.toNat = s.strict.toNat + 2 * s.rnd.toNat) ∧
      (offset = 0x04 → v = s.statusWord) ∧
      (offset = 0x08 → v = s.finfo) ∧
      (offset = 0x10 → v = s.clkFreq) ∧
      (offset = 0x14 → v.toNat = s.outRate.toNat) ∧
      (offset = 0x18 → v = s.duration) ∧
      (offset = 0x1C → v.toNat = s.acc.toNat) ∧
      (offset = 0x20 → v = s.holdL) ∧
      (offset = 0x24 → v = s.holdR) ∧
      (∀ i, i < 7 → offset = 0x40 + 4 * i → ∀ j, j < 4 → v.extractLsb' (8 * j) 8 = s.vcfg.byte (4 * i + j)) ∧
      (offset = 0x0C ∨ (0x28 ≤ offset ∧ offset < 0x40) ∨ 0x5C ≤ offset → v = 0#32)

/-- 10_state R25: every bit of STATUS as read. -/
def Obligations.StatusReadsItsFields : Prop :=
  ∀ s : State,
    s.statusWord.getLsbD 0 = s.fault ∧ s.statusWord.getLsbD 1 = s.sinkErr ∧ s.statusWord.getLsbD 2 = s.cancel ∧
    s.statusWord.getLsbD 3 = s.chipPresent ∧
    (s.statusWord.extractLsb' 4 4).toNat = (match s.cause with
      | none => 0
      | some .illcmd => 1
      | some .proto => 2
      | some .nochip => 3
      | some .cfg => 4) ∧
    s.statusWord.extractLsb' 8 8 = s.keyed ∧ s.statusWord.extractLsb' 16 8 = 0#8 ∧
    s.statusWord.extractLsb' 24 8 = s.freg

/-- 20_memory R53, R55: an aligned word write to a register other than CMD, with FAULT = 0, writes that register and
nothing else; OUTRATE keeps 24 bits and clears ACC, STATUS clears by 1, read-only and reserved offsets ignore it. -/
def Obligations.WritesFollowTheRegisterMap : Prop :=
  ∀ (s u : State) (offset : Nat) (v : Word) (rest : List HostAccess), s.accepting → s.quiet →
    s.bus = ⟨.write v, .word, offset⟩ :: rest → offset ≤ 0xFF → offset % 4 = 0 → offset ≠ 0x0C →
    u = { s with bus := rest, arrivals := s.arrivals.tail } →
    (offset = 0x00 → step s = .next { u with strict := v.getLsbD 0, rnd := v.getLsbD 1 }) ∧
    (offset = 0x04 → step s = .next
      { u with sinkErr := s.sinkErr && !v.getLsbD 1, cancel := s.cancel && !v.getLsbD 2 }) ∧
    (offset = 0x10 → step s = .next { u with clkFreq := v }) ∧
    (offset = 0x14 → step s = .next { u with outRate := v.extractLsb' 0 24, acc := 0#30 }) ∧
    (offset = 0x18 → step s = .next { u with duration := v }) ∧
    (∀ i, i < 7 → offset = 0x40 + 4 * i → step s = .next { u with vcfg := s.vcfg.setWord i v }) ∧
    (offset = 0x08 ∨ (0x1C ≤ offset ∧ offset < 0x40) ∨ 0x5C ≤ offset → step s = .next u)

/-- 20_memory R60: byte k of the staging buffer is bits `8·(k mod 4) + 7 : 8·(k mod 4)` of VCFG(k div 4); so writing
VCFGi sets bytes 4i..4i+3, the lowest index from the least significant byte, and leaves the other 24. -/
def Obligations.StagingBytesAreLittleEndian : Prop :=
  (∀ (v : Staging) (k : Nat), k < 28 → v.byte k = (v.word (k / 4)).extractLsb' (8 * (k % 4)) 8) ∧
  ∀ (v : Staging) (i : Nat) (x : Word), i < 7 →
    (v.setWord i x).word i = x ∧
    (∀ j, j < 4 → (v.setWord i x).byte (4 * i + j) = x.extractLsb' (8 * j) 8) ∧
    ∀ k, k < 28 → k / 4 ≠ i → (v.setWord i x).byte k = v.byte k

/-- 20_memory R54: an access that is narrow or misaligned, inside HOSTREG, gets the bus's error response and changes no
state of YRS, whatever FAULT is. -/
def Obligations.NarrowAccessesGetBusErrors : Prop :=
  ∀ (s : State) (a : HostAccess) (rest : List HostAccess), s.phase = .idle → s.quiet → s.bus = a :: rest →
    a.offset ≤ 0xFF → (a.width ≠ .word ∨ a.offset % 4 ≠ 0) →
    step s = .next { s with bus := rest, arrivals := s.arrivals.tail, responses := s.responses ++ [.busError] }

/-- 20_memory R53: while FAULT = 1 an aligned word write is dropped for every offset, STATUS and CMD included. -/
def Obligations.FaultedWritesAreDropped : Prop :=
  ∀ (s : State) (v : Word) (offset : Nat) (rest : List HostAccess), s.phase = .idle → s.quiet → s.fault = true →
    s.bus = ⟨.write v, .word, offset⟩ :: rest → offset ≤ 0xFF → offset % 4 = 0 →
    step s = .next { s with bus := rest, arrivals := s.arrivals.tail }

/-! ### Whole-machine rules -/

/-- 10_state R39, R40: the histories are append-only and never cleared, reset included, the host's answers likewise
(log 8), and the strap is constant (R41), as KON_SHIFT is (00_scope R7). -/
def Obligations.HistoriesOnlyGrow : Prop :=
  ∀ s t : State, step s = .next t →
    s.chipHistory <+: t.chipHistory ∧ s.outHistory <+: t.outHistory ∧ s.responses <+: t.responses ∧
      t.chipPresent = s.chipPresent ∧ t.konShift = s.konShift

/-- 20_memory R69, 70_reset_and_hazards R222: only an output step clocks the chip or emits a sample: no step outside the
generation phase does. -/
def Obligations.OnlyGenerationClocksTheChip : Prop :=
  ∀ s t : State, s.phase ≠ .gen → step s = .next t →
    clockCount t.chipHistory = clockCount s.chipHistory ∧ sampleEvents t.outHistory = sampleEvents s.outHistory

/-- 20_memory R58: both address computations are `0x20 + 8·r + ch`, and conversely every address from 0x20 on has its
channel and register index. -/
def Obligations.AddressesAreOneFormula : Prop :=
  (∀ ch sel : BitVec 3, sel.toNat ≤ 3 → (chAddr ch sel).toNat = 0x20 + 8 * sel.toNat + ch.toNat ∧
    chAddr ch sel = regAddr sel.toNat ch) ∧
  (∀ (ch : BitVec 3) (op : BitVec 2) (sel : BitVec 3), sel.toNat ≤ 5 →
    (opAddr ch op sel).toNat = 0x40 + 0x20 * sel.toNat + 8 * op.toNat + ch.toNat ∧
    opAddr ch op sel = regAddr (4 + 4 * sel.toNat + op.toNat) ch) ∧
  (∀ a : Byte, 0x20 ≤ a.toNat →
    (a.toNat - 0x20) / 8 < 28 ∧ regAddr ((a.toNat - 0x20) / 8) (addrChannel a) = a ∧
    (addrChannel a).toNat = a.toNat % 8)

/-- 20_memory R59: the key byte is `((m << KON_SHIFT) | ch)[7:0]`, with KON_SHIFT = 4 the mask, a zero bit and the
channel; a byte names the channel in its bits 2:0 and the mask `(v >> KON_SHIFT)[3:0]`, with KON_SHIFT = 4 its bits 7:4.
From KON_SHIFT = 3 on both are read back from the byte (log 22). State.reset takes 4 (00_scope R7, log 3). -/
def Obligations.KeyByteIsMaskAndChannel : Prop :=
  (∀ (shift : KonShift) (ch : BitVec 3) (mask : BitVec 4),
    (kon shift ch mask).toNat = (mask.toNat * 2 ^ shift.val ||| ch.toNat) % 2 ^ 8 ∧
    (3 ≤ shift.val → konChannel (kon shift ch mask) = ch ∧ konMask shift (kon shift ch mask) = mask)) ∧
  (∀ (ch : BitVec 3) (mask : BitVec 4), kon 4 ch mask = mask ++ 0#1 ++ ch) ∧
  (∀ (shift : KonShift) (v : Byte),
    konChannel v = v.extractLsb' 0 3 ∧ (konMask shift v).toNat = v.toNat / 2 ^ shift.val % 16) ∧
  (∀ v : Byte, konMask 4 v = v.extractLsb' 4 4) ∧ State.reset.konShift.val = 4
end

