-- ==== Sys2Proof/Laws/State.lean ====
section
/-! SUPPORT. What each shared update of a State leaves in each field: one lemma per field per update. -/

namespace Sys2Proof.Machine

/-! ### chipReset -/

@[simp] theorem State.chipReset_chipPresent (s : State) : (s.chipReset).chipPresent = s.chipPresent := rfl
@[simp] theorem State.chipReset_konShift (s : State) : (s.chipReset).konShift = s.konShift := rfl
@[simp] theorem State.chipReset_bus (s : State) : (s.chipReset).bus = s.bus := rfl
@[simp] theorem State.chipReset_arrivals (s : State) : (s.chipReset).arrivals = s.arrivals := rfl
@[simp] theorem State.chipReset_responses (s : State) : (s.chipReset).responses = s.responses := rfl
@[simp] theorem State.chipReset_strict (s : State) : (s.chipReset).strict = s.strict := rfl
@[simp] theorem State.chipReset_rnd (s : State) : (s.chipReset).rnd = s.rnd := rfl
@[simp] theorem State.chipReset_fault (s : State) : (s.chipReset).fault = s.fault := rfl
@[simp] theorem State.chipReset_sinkErr (s : State) : (s.chipReset).sinkErr = s.sinkErr := rfl
@[simp] theorem State.chipReset_cancel (s : State) : (s.chipReset).cancel = s.cancel := rfl
@[simp] theorem State.chipReset_cause (s : State) : (s.chipReset).cause = s.cause := rfl
@[simp] theorem State.chipReset_freg (s : State) : (s.chipReset).freg = s.freg := rfl
@[simp] theorem State.chipReset_finfo (s : State) : (s.chipReset).finfo = s.finfo := rfl
@[simp] theorem State.chipReset_clkFreq (s : State) : (s.chipReset).clkFreq = s.clkFreq := rfl
@[simp] theorem State.chipReset_outRate (s : State) : (s.chipReset).outRate = s.outRate := rfl
@[simp] theorem State.chipReset_duration (s : State) : (s.chipReset).duration = s.duration := rfl
@[simp] theorem State.chipReset_acc (s : State) : (s.chipReset).acc = s.acc := rfl
@[simp] theorem State.chipReset_holdL (s : State) : (s.chipReset).holdL = s.holdL := rfl
@[simp] theorem State.chipReset_holdR (s : State) : (s.chipReset).holdR = s.holdR := rfl
@[simp] theorem State.chipReset_vcfg (s : State) : (s.chipReset).vcfg = s.vcfg := rfl
@[simp] theorem State.chipReset_keyed (s : State) : (s.chipReset).keyed = s.keyed := rfl
@[simp] theorem State.chipReset_written (s : State) : (s.chipReset).written = s.written := rfl
@[simp] theorem State.chipReset_phase (s : State) : (s.chipReset).phase = s.phase := rfl
@[simp] theorem State.chipReset_remain (s : State) : (s.chipReset).remain = s.remain := rfl
@[simp] theorem State.chipReset_playAfter (s : State) : (s.chipReset).playAfter = s.playAfter := rfl
@[simp] theorem State.chipReset_playBlk (s : State) : (s.chipReset).playBlk = s.playBlk := rfl
@[simp] theorem State.chipReset_chip (s : State) : (s.chipReset).chip = [] := rfl
@[simp] theorem State.chipReset_chipHistory (s : State) : (s.chipReset).chipHistory = s.chipHistory ++ [.reset] := rfl
@[simp] theorem State.chipReset_outHistory (s : State) : (s.chipReset).outHistory = s.outHistory := rfl

/-! ### chipWrite -/

@[simp] theorem State.chipWrite_chipPresent (s : State) (p : BitVec 1) (d : Byte) : (s.chipWrite p d).chipPresent = s.chipPresent := rfl
@[simp] theorem State.chipWrite_konShift (s : State) (p : BitVec 1) (d : Byte) : (s.chipWrite p d).konShift = s.konShift := rfl
@[simp] theorem State.chipWrite_bus (s : State) (p : BitVec 1) (d : Byte) : (s.chipWrite p d).bus = s.bus := rfl
@[simp] theorem State.chipWrite_arrivals (s : State) (p : BitVec 1) (d : Byte) : (s.chipWrite p d).arrivals = s.arrivals := rfl
@[simp] theorem State.chipWrite_responses (s : State) (p : BitVec 1) (d : Byte) : (s.chipWrite p d).responses = s.responses := rfl
@[simp] theorem State.chipWrite_strict (s : State) (p : BitVec 1) (d : Byte) : (s.chipWrite p d).strict = s.strict := rfl
@[simp] theorem State.chipWrite_rnd (s : State) (p : BitVec 1) (d : Byte) : (s.chipWrite p d).rnd = s.rnd := rfl
@[simp] theorem State.chipWrite_fault (s : State) (p : BitVec 1) (d : Byte) : (s.chipWrite p d).fault = s.fault := rfl
@[simp] theorem State.chipWrite_sinkErr (s : State) (p : BitVec 1) (d : Byte) : (s.chipWrite p d).sinkErr = s.sinkErr := rfl
@[simp] theorem State.chipWrite_cancel (s : State) (p : BitVec 1) (d : Byte) : (s.chipWrite p d).cancel = s.cancel := rfl
@[simp] theorem State.chipWrite_cause (s : State) (p : BitVec 1) (d : Byte) : (s.chipWrite p d).cause = s.cause := rfl
@[simp] theorem State.chipWrite_freg (s : State) (p : BitVec 1) (d : Byte) : (s.chipWrite p d).freg = s.freg := rfl
@[simp] theorem State.chipWrite_finfo (s : State) (p : BitVec 1) (d : Byte) : (s.chipWrite p d).finfo = s.finfo := rfl
@[simp] theorem State.chipWrite_clkFreq (s : State) (p : BitVec 1) (d : Byte) : (s.chipWrite p d).clkFreq = s.clkFreq := rfl
@[simp] theorem State.chipWrite_outRate (s : State) (p : BitVec 1) (d : Byte) : (s.chipWrite p d).outRate = s.outRate := rfl
@[simp] theorem State.chipWrite_duration (s : State) (p : BitVec 1) (d : Byte) : (s.chipWrite p d).duration = s.duration := rfl
@[simp] theorem State.chipWrite_acc (s : State) (p : BitVec 1) (d : Byte) : (s.chipWrite p d).acc = s.acc := rfl
@[simp] theorem State.chipWrite_holdL (s : State) (p : BitVec 1) (d : Byte) : (s.chipWrite p d).holdL = s.holdL := rfl
@[simp] theorem State.chipWrite_holdR (s : State) (p : BitVec 1) (d : Byte) : (s.chipWrite p d).holdR = s.holdR := rfl
@[simp] theorem State.chipWrite_vcfg (s : State) (p : BitVec 1) (d : Byte) : (s.chipWrite p d).vcfg = s.vcfg := rfl
@[simp] theorem State.chipWrite_keyed (s : State) (p : BitVec 1) (d : Byte) : (s.chipWrite p d).keyed = s.keyed := rfl
@[simp] theorem State.chipWrite_written (s : State) (p : BitVec 1) (d : Byte) : (s.chipWrite p d).written = s.written := rfl
@[simp] theorem State.chipWrite_phase (s : State) (p : BitVec 1) (d : Byte) : (s.chipWrite p d).phase = s.phase := rfl
@[simp] theorem State.chipWrite_remain (s : State) (p : BitVec 1) (d : Byte) : (s.chipWrite p d).remain = s.remain := rfl
@[simp] theorem State.chipWrite_playAfter (s : State) (p : BitVec 1) (d : Byte) : (s.chipWrite p d).playAfter = s.playAfter := rfl
@[simp] theorem State.chipWrite_playBlk (s : State) (p : BitVec 1) (d : Byte) : (s.chipWrite p d).playBlk = s.playBlk := rfl
@[simp] theorem State.chipWrite_chip (s : State) (p : BitVec 1) (d : Byte) : (s.chipWrite p d).chip = s.chip ++ [.write p d] := rfl
@[simp] theorem State.chipWrite_chipHistory (s : State) (p : BitVec 1) (d : Byte) : (s.chipWrite p d).chipHistory = s.chipHistory ++ [.op (.write p d)] := rfl
@[simp] theorem State.chipWrite_outHistory (s : State) (p : BitVec 1) (d : Byte) : (s.chipWrite p d).outHistory = s.outHistory := rfl

/-! ### chipClock -/

@[simp] theorem State.chipClock_chipPresent (s : State) : (s.chipClock).chipPresent = s.chipPresent := rfl
@[simp] theorem State.chipClock_konShift (s : State) : (s.chipClock).konShift = s.konShift := rfl
@[simp] theorem State.chipClock_bus (s : State) : (s.chipClock).bus = s.bus := rfl
@[simp] theorem State.chipClock_arrivals (s : State) : (s.chipClock).arrivals = s.arrivals := rfl
@[simp] theorem State.chipClock_responses (s : State) : (s.chipClock).responses = s.responses := rfl
@[simp] theorem State.chipClock_strict (s : State) : (s.chipClock).strict = s.strict := rfl
@[simp] theorem State.chipClock_rnd (s : State) : (s.chipClock).rnd = s.rnd := rfl
@[simp] theorem State.chipClock_fault (s : State) : (s.chipClock).fault = s.fault := rfl
@[simp] theorem State.chipClock_sinkErr (s : State) : (s.chipClock).sinkErr = s.sinkErr := rfl
@[simp] theorem State.chipClock_cancel (s : State) : (s.chipClock).cancel = s.cancel := rfl
@[simp] theorem State.chipClock_cause (s : State) : (s.chipClock).cause = s.cause := rfl
@[simp] theorem State.chipClock_freg (s : State) : (s.chipClock).freg = s.freg := rfl
@[simp] theorem State.chipClock_finfo (s : State) : (s.chipClock).finfo = s.finfo := rfl
@[simp] theorem State.chipClock_clkFreq (s : State) : (s.chipClock).clkFreq = s.clkFreq := rfl
@[simp] theorem State.chipClock_outRate (s : State) : (s.chipClock).outRate = s.outRate := rfl
@[simp] theorem State.chipClock_duration (s : State) : (s.chipClock).duration = s.duration := rfl
@[simp] theorem State.chipClock_acc (s : State) : (s.chipClock).acc = s.acc := rfl
@[simp] theorem State.chipClock_holdL (s : State) : (s.chipClock).holdL = s.holdL := rfl
@[simp] theorem State.chipClock_holdR (s : State) : (s.chipClock).holdR = s.holdR := rfl
@[simp] theorem State.chipClock_vcfg (s : State) : (s.chipClock).vcfg = s.vcfg := rfl
@[simp] theorem State.chipClock_keyed (s : State) : (s.chipClock).keyed = s.keyed := rfl
@[simp] theorem State.chipClock_written (s : State) : (s.chipClock).written = s.written := rfl
@[simp] theorem State.chipClock_phase (s : State) : (s.chipClock).phase = s.phase := rfl
@[simp] theorem State.chipClock_remain (s : State) : (s.chipClock).remain = s.remain := rfl
@[simp] theorem State.chipClock_playAfter (s : State) : (s.chipClock).playAfter = s.playAfter := rfl
@[simp] theorem State.chipClock_playBlk (s : State) : (s.chipClock).playBlk = s.playBlk := rfl
@[simp] theorem State.chipClock_chip (s : State) : (s.chipClock).chip = s.chip ++ [.clock] := rfl
@[simp] theorem State.chipClock_chipHistory (s : State) : (s.chipClock).chipHistory = s.chipHistory ++ [.op .clock] := rfl
@[simp] theorem State.chipClock_outHistory (s : State) : (s.chipClock).outHistory = s.outHistory := rfl

/-! ### emit -/

@[simp] theorem State.emit_chipPresent (s : State) (e : OutEvent) : (s.emit e).chipPresent = s.chipPresent := rfl
@[simp] theorem State.emit_konShift (s : State) (e : OutEvent) : (s.emit e).konShift = s.konShift := rfl
@[simp] theorem State.emit_bus (s : State) (e : OutEvent) : (s.emit e).bus = s.bus := rfl
@[simp] theorem State.emit_arrivals (s : State) (e : OutEvent) : (s.emit e).arrivals = s.arrivals := rfl
@[simp] theorem State.emit_responses (s : State) (e : OutEvent) : (s.emit e).responses = s.responses := rfl
@[simp] theorem State.emit_strict (s : State) (e : OutEvent) : (s.emit e).strict = s.strict := rfl
@[simp] theorem State.emit_rnd (s : State) (e : OutEvent) : (s.emit e).rnd = s.rnd := rfl
@[simp] theorem State.emit_fault (s : State) (e : OutEvent) : (s.emit e).fault = s.fault := rfl
@[simp] theorem State.emit_sinkErr (s : State) (e : OutEvent) : (s.emit e).sinkErr = s.sinkErr := rfl
@[simp] theorem State.emit_cancel (s : State) (e : OutEvent) : (s.emit e).cancel = s.cancel := rfl
@[simp] theorem State.emit_cause (s : State) (e : OutEvent) : (s.emit e).cause = s.cause := rfl
@[simp] theorem State.emit_freg (s : State) (e : OutEvent) : (s.emit e).freg = s.freg := rfl
@[simp] theorem State.emit_finfo (s : State) (e : OutEvent) : (s.emit e).finfo = s.finfo := rfl
@[simp] theorem State.emit_clkFreq (s : State) (e : OutEvent) : (s.emit e).clkFreq = s.clkFreq := rfl
@[simp] theorem State.emit_outRate (s : State) (e : OutEvent) : (s.emit e).outRate = s.outRate := rfl
@[simp] theorem State.emit_duration (s : State) (e : OutEvent) : (s.emit e).duration = s.duration := rfl
@[simp] theorem State.emit_acc (s : State) (e : OutEvent) : (s.emit e).acc = s.acc := rfl
@[simp] theorem State.emit_holdL (s : State) (e : OutEvent) : (s.emit e).holdL = s.holdL := rfl
@[simp] theorem State.emit_holdR (s : State) (e : OutEvent) : (s.emit e).holdR = s.holdR := rfl
@[simp] theorem State.emit_vcfg (s : State) (e : OutEvent) : (s.emit e).vcfg = s.vcfg := rfl
@[simp] theorem State.emit_keyed (s : State) (e : OutEvent) : (s.emit e).keyed = s.keyed := rfl
@[simp] theorem State.emit_written (s : State) (e : OutEvent) : (s.emit e).written = s.written := rfl
@[simp] theorem State.emit_phase (s : State) (e : OutEvent) : (s.emit e).phase = s.phase := rfl
@[simp] theorem State.emit_remain (s : State) (e : OutEvent) : (s.emit e).remain = s.remain := rfl
@[simp] theorem State.emit_playAfter (s : State) (e : OutEvent) : (s.emit e).playAfter = s.playAfter := rfl
@[simp] theorem State.emit_playBlk (s : State) (e : OutEvent) : (s.emit e).playBlk = s.playBlk := rfl
@[simp] theorem State.emit_chip (s : State) (e : OutEvent) : (s.emit e).chip = s.chip := rfl
@[simp] theorem State.emit_chipHistory (s : State) (e : OutEvent) : (s.emit e).chipHistory = s.chipHistory := rfl
@[simp] theorem State.emit_outHistory (s : State) (e : OutEvent) : (s.emit e).outHistory = s.outHistory ++ [e] := rfl

/-! ### raiseFault -/

@[simp] theorem State.raiseFault_chipPresent (s : State) (c : FaultCause) (w : Word) (a : Byte) : (s.raiseFault c w a).chipPresent = s.chipPresent := rfl
@[simp] theorem State.raiseFault_konShift (s : State) (c : FaultCause) (w : Word) (a : Byte) : (s.raiseFault c w a).konShift = s.konShift := rfl
@[simp] theorem State.raiseFault_bus (s : State) (c : FaultCause) (w : Word) (a : Byte) : (s.raiseFault c w a).bus = s.bus := rfl
@[simp] theorem State.raiseFault_arrivals (s : State) (c : FaultCause) (w : Word) (a : Byte) : (s.raiseFault c w a).arrivals = s.arrivals := rfl
@[simp] theorem State.raiseFault_responses (s : State) (c : FaultCause) (w : Word) (a : Byte) : (s.raiseFault c w a).responses = s.responses := rfl
@[simp] theorem State.raiseFault_strict (s : State) (c : FaultCause) (w : Word) (a : Byte) : (s.raiseFault c w a).strict = s.strict := rfl
@[simp] theorem State.raiseFault_rnd (s : State) (c : FaultCause) (w : Word) (a : Byte) : (s.raiseFault c w a).rnd = s.rnd := rfl
@[simp] theorem State.raiseFault_fault (s : State) (c : FaultCause) (w : Word) (a : Byte) : (s.raiseFault c w a).fault = true := rfl
@[simp] theorem State.raiseFault_sinkErr (s : State) (c : FaultCause) (w : Word) (a : Byte) : (s.raiseFault c w a).sinkErr = s.sinkErr := rfl
@[simp] theorem State.raiseFault_cancel (s : State) (c : FaultCause) (w : Word) (a : Byte) : (s.raiseFault c w a).cancel = s.cancel := rfl
@[simp] theorem State.raiseFault_cause (s : State) (c : FaultCause) (w : Word) (a : Byte) : (s.raiseFault c w a).cause = some c := rfl
@[simp] theorem State.raiseFault_freg (s : State) (c : FaultCause) (w : Word) (a : Byte) : (s.raiseFault c w a).freg = if c = .proto then a else 0#8 := rfl
@[simp] theorem State.raiseFault_finfo (s : State) (c : FaultCause) (w : Word) (a : Byte) : (s.raiseFault c w a).finfo = w := rfl
@[simp] theorem State.raiseFault_clkFreq (s : State) (c : FaultCause) (w : Word) (a : Byte) : (s.raiseFault c w a).clkFreq = s.clkFreq := rfl
@[simp] theorem State.raiseFault_outRate (s : State) (c : FaultCause) (w : Word) (a : Byte) : (s.raiseFault c w a).outRate = s.outRate := rfl
@[simp] theorem State.raiseFault_duration (s : State) (c : FaultCause) (w : Word) (a : Byte) : (s.raiseFault c w a).duration = s.duration := rfl
@[simp] theorem State.raiseFault_acc (s : State) (c : FaultCause) (w : Word) (a : Byte) : (s.raiseFault c w a).acc = s.acc := rfl
@[simp] theorem State.raiseFault_holdL (s : State) (c : FaultCause) (w : Word) (a : Byte) : (s.raiseFault c w a).holdL = s.holdL := rfl
@[simp] theorem State.raiseFault_holdR (s : State) (c : FaultCause) (w : Word) (a : Byte) : (s.raiseFault c w a).holdR = s.holdR := rfl
@[simp] theorem State.raiseFault_vcfg (s : State) (c : FaultCause) (w : Word) (a : Byte) : (s.raiseFault c w a).vcfg = s.vcfg := rfl
@[simp] theorem State.raiseFault_keyed (s : State) (c : FaultCause) (w : Word) (a : Byte) : (s.raiseFault c w a).keyed = s.keyed := rfl
@[simp] theorem State.raiseFault_written (s : State) (c : FaultCause) (w : Word) (a : Byte) : (s.raiseFault c w a).written = s.written := rfl
@[simp] theorem State.raiseFault_phase (s : State) (c : FaultCause) (w : Word) (a : Byte) : (s.raiseFault c w a).phase = .idle := rfl
@[simp] theorem State.raiseFault_remain (s : State) (c : FaultCause) (w : Word) (a : Byte) : (s.raiseFault c w a).remain = s.remain := rfl
@[simp] theorem State.raiseFault_playAfter (s : State) (c : FaultCause) (w : Word) (a : Byte) : (s.raiseFault c w a).playAfter = s.playAfter := rfl
@[simp] theorem State.raiseFault_playBlk (s : State) (c : FaultCause) (w : Word) (a : Byte) : (s.raiseFault c w a).playBlk = s.playBlk := rfl
@[simp] theorem State.raiseFault_chip (s : State) (c : FaultCause) (w : Word) (a : Byte) : (s.raiseFault c w a).chip = s.chip := rfl
@[simp] theorem State.raiseFault_chipHistory (s : State) (c : FaultCause) (w : Word) (a : Byte) : (s.raiseFault c w a).chipHistory = s.chipHistory := rfl
@[simp] theorem State.raiseFault_outHistory (s : State) (c : FaultCause) (w : Word) (a : Byte) : (s.raiseFault c w a).outHistory = s.outHistory := rfl

/-! ### portPair -/

@[simp] theorem State.portPair_chipPresent (s : State) (a v : Byte) : (s.portPair a v).chipPresent = s.chipPresent := rfl
@[simp] theorem State.portPair_konShift (s : State) (a v : Byte) : (s.portPair a v).konShift = s.konShift := rfl
@[simp] theorem State.portPair_bus (s : State) (a v : Byte) : (s.portPair a v).bus = s.bus := rfl
@[simp] theorem State.portPair_arrivals (s : State) (a v : Byte) : (s.portPair a v).arrivals = s.arrivals := rfl
@[simp] theorem State.portPair_responses (s : State) (a v : Byte) : (s.portPair a v).responses = s.responses := rfl
@[simp] theorem State.portPair_strict (s : State) (a v : Byte) : (s.portPair a v).strict = s.strict := rfl
@[simp] theorem State.portPair_rnd (s : State) (a v : Byte) : (s.portPair a v).rnd = s.rnd := rfl
@[simp] theorem State.portPair_fault (s : State) (a v : Byte) : (s.portPair a v).fault = s.fault := rfl
@[simp] theorem State.portPair_sinkErr (s : State) (a v : Byte) : (s.portPair a v).sinkErr = s.sinkErr := rfl
@[simp] theorem State.portPair_cancel (s : State) (a v : Byte) : (s.portPair a v).cancel = s.cancel := rfl
@[simp] theorem State.portPair_cause (s : State) (a v : Byte) : (s.portPair a v).cause = s.cause := rfl
@[simp] theorem State.portPair_freg (s : State) (a v : Byte) : (s.portPair a v).freg = s.freg := rfl
@[simp] theorem State.portPair_finfo (s : State) (a v : Byte) : (s.portPair a v).finfo = s.finfo := rfl
@[simp] theorem State.portPair_clkFreq (s : State) (a v : Byte) : (s.portPair a v).clkFreq = s.clkFreq := rfl
@[simp] theorem State.portPair_outRate (s : State) (a v : Byte) : (s.portPair a v).outRate = s.outRate := rfl
@[simp] theorem State.portPair_duration (s : State) (a v : Byte) : (s.portPair a v).duration = s.duration := rfl
@[simp] theorem State.portPair_acc (s : State) (a v : Byte) : (s.portPair a v).acc = s.acc := rfl
@[simp] theorem State.portPair_holdL (s : State) (a v : Byte) : (s.portPair a v).holdL = s.holdL := rfl
@[simp] theorem State.portPair_holdR (s : State) (a v : Byte) : (s.portPair a v).holdR = s.holdR := rfl
@[simp] theorem State.portPair_vcfg (s : State) (a v : Byte) : (s.portPair a v).vcfg = s.vcfg := rfl
@[simp] theorem State.portPair_keyed (s : State) (a v : Byte) : (s.portPair a v).keyed = s.keyed := rfl
@[simp] theorem State.portPair_written (s : State) (a v : Byte) : (s.portPair a v).written = s.written := rfl
@[simp] theorem State.portPair_phase (s : State) (a v : Byte) : (s.portPair a v).phase = s.phase := rfl
@[simp] theorem State.portPair_remain (s : State) (a v : Byte) : (s.portPair a v).remain = s.remain := rfl
@[simp] theorem State.portPair_playAfter (s : State) (a v : Byte) : (s.portPair a v).playAfter = s.playAfter := rfl
@[simp] theorem State.portPair_playBlk (s : State) (a v : Byte) : (s.portPair a v).playBlk = s.playBlk := rfl
@[simp] theorem State.portPair_chip (s : State) (a v : Byte) : (s.portPair a v).chip = s.chip ++ [.write 0#1 a] ++ [.write 1#1 v] := rfl
@[simp] theorem State.portPair_chipHistory (s : State) (a v : Byte) : (s.portPair a v).chipHistory = s.chipHistory ++ [.op (.write 0#1 a)] ++ [.op (.write 1#1 v)] := rfl
@[simp] theorem State.portPair_outHistory (s : State) (a v : Byte) : (s.portPair a v).outHistory = s.outHistory := rfl

/-! ### track -/

@[simp] theorem State.track_chipPresent (s : State) (a v : Byte) : (s.track a v).chipPresent = s.chipPresent := rfl
@[simp] theorem State.track_konShift (s : State) (a v : Byte) : (s.track a v).konShift = s.konShift := rfl
@[simp] theorem State.track_bus (s : State) (a v : Byte) : (s.track a v).bus = s.bus := rfl
@[simp] theorem State.track_arrivals (s : State) (a v : Byte) : (s.track a v).arrivals = s.arrivals := rfl
@[simp] theorem State.track_responses (s : State) (a v : Byte) : (s.track a v).responses = s.responses := rfl
@[simp] theorem State.track_strict (s : State) (a v : Byte) : (s.track a v).strict = s.strict := rfl
@[simp] theorem State.track_rnd (s : State) (a v : Byte) : (s.track a v).rnd = s.rnd := rfl
@[simp] theorem State.track_fault (s : State) (a v : Byte) : (s.track a v).fault = s.fault := rfl
@[simp] theorem State.track_sinkErr (s : State) (a v : Byte) : (s.track a v).sinkErr = s.sinkErr := rfl
@[simp] theorem State.track_cancel (s : State) (a v : Byte) : (s.track a v).cancel = s.cancel := rfl
@[simp] theorem State.track_cause (s : State) (a v : Byte) : (s.track a v).cause = s.cause := rfl
@[simp] theorem State.track_freg (s : State) (a v : Byte) : (s.track a v).freg = s.freg := rfl
@[simp] theorem State.track_finfo (s : State) (a v : Byte) : (s.track a v).finfo = s.finfo := rfl
@[simp] theorem State.track_clkFreq (s : State) (a v : Byte) : (s.track a v).clkFreq = s.clkFreq := rfl
@[simp] theorem State.track_outRate (s : State) (a v : Byte) : (s.track a v).outRate = s.outRate := rfl
@[simp] theorem State.track_duration (s : State) (a v : Byte) : (s.track a v).duration = s.duration := rfl
@[simp] theorem State.track_acc (s : State) (a v : Byte) : (s.track a v).acc = s.acc := rfl
@[simp] theorem State.track_holdL (s : State) (a v : Byte) : (s.track a v).holdL = s.holdL := rfl
@[simp] theorem State.track_holdR (s : State) (a v : Byte) : (s.track a v).holdR = s.holdR := rfl
@[simp] theorem State.track_vcfg (s : State) (a v : Byte) : (s.track a v).vcfg = s.vcfg := rfl
@[simp] theorem State.track_keyed (s : State) (a v : Byte) : (s.track a v).keyed = trackKeyed s.konShift s.keyed a v := rfl
@[simp] theorem State.track_written (s : State) (a v : Byte) : (s.track a v).written = trackWritten s.written a := rfl
@[simp] theorem State.track_phase (s : State) (a v : Byte) : (s.track a v).phase = s.phase := rfl
@[simp] theorem State.track_remain (s : State) (a v : Byte) : (s.track a v).remain = s.remain := rfl
@[simp] theorem State.track_playAfter (s : State) (a v : Byte) : (s.track a v).playAfter = s.playAfter := rfl
@[simp] theorem State.track_playBlk (s : State) (a v : Byte) : (s.track a v).playBlk = s.playBlk := rfl
@[simp] theorem State.track_chip (s : State) (a v : Byte) : (s.track a v).chip = s.chip := rfl
@[simp] theorem State.track_chipHistory (s : State) (a v : Byte) : (s.track a v).chipHistory = s.chipHistory := rfl
@[simp] theorem State.track_outHistory (s : State) (a v : Byte) : (s.track a v).outHistory = s.outHistory := rfl

/-! ### clearRegisters -/

@[simp] theorem State.clearRegisters_chipPresent (s : State) (b : Bool) : (s.clearRegisters b).chipPresent = s.chipPresent := rfl
@[simp] theorem State.clearRegisters_konShift (s : State) (b : Bool) : (s.clearRegisters b).konShift = s.konShift := rfl
@[simp] theorem State.clearRegisters_bus (s : State) (b : Bool) : (s.clearRegisters b).bus = s.bus := rfl
@[simp] theorem State.clearRegisters_arrivals (s : State) (b : Bool) : (s.clearRegisters b).arrivals = s.arrivals := rfl
@[simp] theorem State.clearRegisters_responses (s : State) (b : Bool) : (s.clearRegisters b).responses = s.responses := rfl
@[simp] theorem State.clearRegisters_strict (s : State) (b : Bool) : (s.clearRegisters b).strict = false := rfl
@[simp] theorem State.clearRegisters_rnd (s : State) (b : Bool) : (s.clearRegisters b).rnd = false := rfl
@[simp] theorem State.clearRegisters_fault (s : State) (b : Bool) : (s.clearRegisters b).fault = false := rfl
@[simp] theorem State.clearRegisters_sinkErr (s : State) (b : Bool) : (s.clearRegisters b).sinkErr = false := rfl
@[simp] theorem State.clearRegisters_cancel (s : State) (b : Bool) : (s.clearRegisters b).cancel = b := rfl
@[simp] theorem State.clearRegisters_cause (s : State) (b : Bool) : (s.clearRegisters b).cause = none := rfl
@[simp] theorem State.clearRegisters_freg (s : State) (b : Bool) : (s.clearRegisters b).freg = 0#8 := rfl
@[simp] theorem State.clearRegisters_finfo (s : State) (b : Bool) : (s.clearRegisters b).finfo = 0#32 := rfl
@[simp] theorem State.clearRegisters_clkFreq (s : State) (b : Bool) : (s.clearRegisters b).clkFreq = Config.nominalClkFreq := rfl
@[simp] theorem State.clearRegisters_outRate (s : State) (b : Bool) : (s.clearRegisters b).outRate = Config.nominalOutRate := rfl
@[simp] theorem State.clearRegisters_duration (s : State) (b : Bool) : (s.clearRegisters b).duration = 0#32 := rfl
@[simp] theorem State.clearRegisters_acc (s : State) (b : Bool) : (s.clearRegisters b).acc = 0#30 := rfl
@[simp] theorem State.clearRegisters_holdL (s : State) (b : Bool) : (s.clearRegisters b).holdL = 0#32 := rfl
@[simp] theorem State.clearRegisters_holdR (s : State) (b : Bool) : (s.clearRegisters b).holdR = 0#32 := rfl
@[simp] theorem State.clearRegisters_vcfg (s : State) (b : Bool) : (s.clearRegisters b).vcfg = Staging.zero := rfl
@[simp] theorem State.clearRegisters_keyed (s : State) (b : Bool) : (s.clearRegisters b).keyed = 0#8 := rfl
@[simp] theorem State.clearRegisters_written (s : State) (b : Bool) : (s.clearRegisters b).written = 0#224 := rfl
@[simp] theorem State.clearRegisters_phase (s : State) (b : Bool) : (s.clearRegisters b).phase = .idle := rfl
@[simp] theorem State.clearRegisters_remain (s : State) (b : Bool) : (s.clearRegisters b).remain = 0#40 := rfl
@[simp] theorem State.clearRegisters_playAfter (s : State) (b : Bool) : (s.clearRegisters b).playAfter = false := rfl
@[simp] theorem State.clearRegisters_playBlk (s : State) (b : Bool) : (s.clearRegisters b).playBlk = false := rfl
@[simp] theorem State.clearRegisters_chip (s : State) (b : Bool) : (s.clearRegisters b).chip = s.chip := rfl
@[simp] theorem State.clearRegisters_chipHistory (s : State) (b : Bool) : (s.clearRegisters b).chipHistory = s.chipHistory := rfl
@[simp] theorem State.clearRegisters_outHistory (s : State) (b : Bool) : (s.clearRegisters b).outHistory = s.outHistory := rfl

/-! ### handOff -/

@[simp] theorem State.handOff_chipPresent (s : State) (b : Bool) : (s.handOff b).chipPresent = s.chipPresent := rfl
@[simp] theorem State.handOff_konShift (s : State) (b : Bool) : (s.handOff b).konShift = s.konShift := rfl
@[simp] theorem State.handOff_bus (s : State) (b : Bool) : (s.handOff b).bus = s.bus := rfl
@[simp] theorem State.handOff_arrivals (s : State) (b : Bool) : (s.handOff b).arrivals = s.arrivals := rfl
@[simp] theorem State.handOff_responses (s : State) (b : Bool) : (s.handOff b).responses = s.responses := rfl
@[simp] theorem State.handOff_strict (s : State) (b : Bool) : (s.handOff b).strict = s.strict := rfl
@[simp] theorem State.handOff_rnd (s : State) (b : Bool) : (s.handOff b).rnd = s.rnd := rfl
@[simp] theorem State.handOff_fault (s : State) (b : Bool) : (s.handOff b).fault = s.fault := rfl
@[simp] theorem State.handOff_sinkErr (s : State) (b : Bool) : (s.handOff b).sinkErr = s.sinkErr := rfl
@[simp] theorem State.handOff_cancel (s : State) (b : Bool) : (s.handOff b).cancel = s.cancel := rfl
@[simp] theorem State.handOff_cause (s : State) (b : Bool) : (s.handOff b).cause = s.cause := rfl
@[simp] theorem State.handOff_freg (s : State) (b : Bool) : (s.handOff b).freg = s.freg := rfl
@[simp] theorem State.handOff_finfo (s : State) (b : Bool) : (s.handOff b).finfo = s.finfo := rfl
@[simp] theorem State.handOff_clkFreq (s : State) (b : Bool) : (s.handOff b).clkFreq = s.clkFreq := rfl
@[simp] theorem State.handOff_outRate (s : State) (b : Bool) : (s.handOff b).outRate = s.outRate := rfl
@[simp] theorem State.handOff_duration (s : State) (b : Bool) : (s.handOff b).duration = s.duration := rfl
@[simp] theorem State.handOff_acc (s : State) (b : Bool) : (s.handOff b).acc = s.acc := rfl
@[simp] theorem State.handOff_holdL (s : State) (b : Bool) : (s.handOff b).holdL = s.holdL := rfl
@[simp] theorem State.handOff_holdR (s : State) (b : Bool) : (s.handOff b).holdR = s.holdR := rfl
@[simp] theorem State.handOff_vcfg (s : State) (b : Bool) : (s.handOff b).vcfg = s.vcfg := rfl
@[simp] theorem State.handOff_keyed (s : State) (b : Bool) : (s.handOff b).keyed = s.keyed := rfl
@[simp] theorem State.handOff_written (s : State) (b : Bool) : (s.handOff b).written = s.written := rfl
@[simp] theorem State.handOff_phase (s : State) (b : Bool) : (s.handOff b).phase = if b then .waitSink else .idle := rfl
@[simp] theorem State.handOff_remain (s : State) (b : Bool) : (s.handOff b).remain = s.remain := rfl
@[simp] theorem State.handOff_playAfter (s : State) (b : Bool) : (s.handOff b).playAfter = s.playAfter := rfl
@[simp] theorem State.handOff_playBlk (s : State) (b : Bool) : (s.handOff b).playBlk = s.playBlk := rfl
@[simp] theorem State.handOff_chip (s : State) (b : Bool) : (s.handOff b).chip = s.chip := rfl
@[simp] theorem State.handOff_chipHistory (s : State) (b : Bool) : (s.handOff b).chipHistory = s.chipHistory := rfl
@[simp] theorem State.handOff_outHistory (s : State) (b : Bool) : (s.handOff b).outHistory = s.outHistory ++ [.play s.outRate b] := rfl

/-! ### passPoint -/

@[simp] theorem State.passPoint_chipPresent (s : State) : (s.passPoint).chipPresent = s.chipPresent := rfl
@[simp] theorem State.passPoint_konShift (s : State) : (s.passPoint).konShift = s.konShift := rfl
@[simp] theorem State.passPoint_bus (s : State) : (s.passPoint).bus = s.bus := rfl
@[simp] theorem State.passPoint_arrivals (s : State) : (s.passPoint).arrivals = s.arrivals.tail := rfl
@[simp] theorem State.passPoint_responses (s : State) : (s.passPoint).responses = s.responses := rfl
@[simp] theorem State.passPoint_strict (s : State) : (s.passPoint).strict = s.strict := rfl
@[simp] theorem State.passPoint_rnd (s : State) : (s.passPoint).rnd = s.rnd := rfl
@[simp] theorem State.passPoint_fault (s : State) : (s.passPoint).fault = s.fault := rfl
@[simp] theorem State.passPoint_sinkErr (s : State) : (s.passPoint).sinkErr = s.sinkErr := rfl
@[simp] theorem State.passPoint_cancel (s : State) : (s.passPoint).cancel = s.cancel := rfl
@[simp] theorem State.passPoint_cause (s : State) : (s.passPoint).cause = s.cause := rfl
@[simp] theorem State.passPoint_freg (s : State) : (s.passPoint).freg = s.freg := rfl
@[simp] theorem State.passPoint_finfo (s : State) : (s.passPoint).finfo = s.finfo := rfl
@[simp] theorem State.passPoint_clkFreq (s : State) : (s.passPoint).clkFreq = s.clkFreq := rfl
@[simp] theorem State.passPoint_outRate (s : State) : (s.passPoint).outRate = s.outRate := rfl
@[simp] theorem State.passPoint_duration (s : State) : (s.passPoint).duration = s.duration := rfl
@[simp] theorem State.passPoint_acc (s : State) : (s.passPoint).acc = s.acc := rfl
@[simp] theorem State.passPoint_holdL (s : State) : (s.passPoint).holdL = s.holdL := rfl
@[simp] theorem State.passPoint_holdR (s : State) : (s.passPoint).holdR = s.holdR := rfl
@[simp] theorem State.passPoint_vcfg (s : State) : (s.passPoint).vcfg = s.vcfg := rfl
@[simp] theorem State.passPoint_keyed (s : State) : (s.passPoint).keyed = s.keyed := rfl
@[simp] theorem State.passPoint_written (s : State) : (s.passPoint).written = s.written := rfl
@[simp] theorem State.passPoint_phase (s : State) : (s.passPoint).phase = s.phase := rfl
@[simp] theorem State.passPoint_remain (s : State) : (s.passPoint).remain = s.remain := rfl
@[simp] theorem State.passPoint_playAfter (s : State) : (s.passPoint).playAfter = s.playAfter := rfl
@[simp] theorem State.passPoint_playBlk (s : State) : (s.passPoint).playBlk = s.playBlk := rfl
@[simp] theorem State.passPoint_chip (s : State) : (s.passPoint).chip = s.chip := rfl
@[simp] theorem State.passPoint_chipHistory (s : State) : (s.passPoint).chipHistory = s.chipHistory := rfl
@[simp] theorem State.passPoint_outHistory (s : State) : (s.passPoint).outHistory = s.outHistory := rfl

/-! ### respond -/

@[simp] theorem State.respond_chipPresent (s : State) (r : BusResponse) : (s.respond r).chipPresent = s.chipPresent := rfl
@[simp] theorem State.respond_konShift (s : State) (r : BusResponse) : (s.respond r).konShift = s.konShift := rfl
@[simp] theorem State.respond_bus (s : State) (r : BusResponse) : (s.respond r).bus = s.bus := rfl
@[simp] theorem State.respond_arrivals (s : State) (r : BusResponse) : (s.respond r).arrivals = s.arrivals := rfl
@[simp] theorem State.respond_responses (s : State) (r : BusResponse) : (s.respond r).responses = s.responses ++ [r] := rfl
@[simp] theorem State.respond_strict (s : State) (r : BusResponse) : (s.respond r).strict = s.strict := rfl
@[simp] theorem State.respond_rnd (s : State) (r : BusResponse) : (s.respond r).rnd = s.rnd := rfl
@[simp] theorem State.respond_fault (s : State) (r : BusResponse) : (s.respond r).fault = s.fault := rfl
@[simp] theorem State.respond_sinkErr (s : State) (r : BusResponse) : (s.respond r).sinkErr = s.sinkErr := rfl
@[simp] theorem State.respond_cancel (s : State) (r : BusResponse) : (s.respond r).cancel = s.cancel := rfl
@[simp] theorem State.respond_cause (s : State) (r : BusResponse) : (s.respond r).cause = s.cause := rfl
@[simp] theorem State.respond_freg (s : State) (r : BusResponse) : (s.respond r).freg = s.freg := rfl
@[simp] theorem State.respond_finfo (s : State) (r : BusResponse) : (s.respond r).finfo = s.finfo := rfl
@[simp] theorem State.respond_clkFreq (s : State) (r : BusResponse) : (s.respond r).clkFreq = s.clkFreq := rfl
@[simp] theorem State.respond_outRate (s : State) (r : BusResponse) : (s.respond r).outRate = s.outRate := rfl
@[simp] theorem State.respond_duration (s : State) (r : BusResponse) : (s.respond r).duration = s.duration := rfl
@[simp] theorem State.respond_acc (s : State) (r : BusResponse) : (s.respond r).acc = s.acc := rfl
@[simp] theorem State.respond_holdL (s : State) (r : BusResponse) : (s.respond r).holdL = s.holdL := rfl
@[simp] theorem State.respond_holdR (s : State) (r : BusResponse) : (s.respond r).holdR = s.holdR := rfl
@[simp] theorem State.respond_vcfg (s : State) (r : BusResponse) : (s.respond r).vcfg = s.vcfg := rfl
@[simp] theorem State.respond_keyed (s : State) (r : BusResponse) : (s.respond r).keyed = s.keyed := rfl
@[simp] theorem State.respond_written (s : State) (r : BusResponse) : (s.respond r).written = s.written := rfl
@[simp] theorem State.respond_phase (s : State) (r : BusResponse) : (s.respond r).phase = s.phase := rfl
@[simp] theorem State.respond_remain (s : State) (r : BusResponse) : (s.respond r).remain = s.remain := rfl
@[simp] theorem State.respond_playAfter (s : State) (r : BusResponse) : (s.respond r).playAfter = s.playAfter := rfl
@[simp] theorem State.respond_playBlk (s : State) (r : BusResponse) : (s.respond r).playBlk = s.playBlk := rfl
@[simp] theorem State.respond_chip (s : State) (r : BusResponse) : (s.respond r).chip = s.chip := rfl
@[simp] theorem State.respond_chipHistory (s : State) (r : BusResponse) : (s.respond r).chipHistory = s.chipHistory := rfl
@[simp] theorem State.respond_outHistory (s : State) (r : BusResponse) : (s.respond r).outHistory = s.outHistory := rfl

/-! ### writeCtrl -/

@[simp] theorem State.writeCtrl_chipPresent (s : State) (v : Word) : (s.writeCtrl v).chipPresent = s.chipPresent := rfl
@[simp] theorem State.writeCtrl_konShift (s : State) (v : Word) : (s.writeCtrl v).konShift = s.konShift := rfl
@[simp] theorem State.writeCtrl_bus (s : State) (v : Word) : (s.writeCtrl v).bus = s.bus := rfl
@[simp] theorem State.writeCtrl_arrivals (s : State) (v : Word) : (s.writeCtrl v).arrivals = s.arrivals := rfl
@[simp] theorem State.writeCtrl_responses (s : State) (v : Word) : (s.writeCtrl v).responses = s.responses := rfl
@[simp] theorem State.writeCtrl_strict (s : State) (v : Word) : (s.writeCtrl v).strict = v.getLsbD 0 := rfl
@[simp] theorem State.writeCtrl_rnd (s : State) (v : Word) : (s.writeCtrl v).rnd = v.getLsbD 1 := rfl
@[simp] theorem State.writeCtrl_fault (s : State) (v : Word) : (s.writeCtrl v).fault = s.fault := rfl
@[simp] theorem State.writeCtrl_sinkErr (s : State) (v : Word) : (s.writeCtrl v).sinkErr = s.sinkErr := rfl
@[simp] theorem State.writeCtrl_cancel (s : State) (v : Word) : (s.writeCtrl v).cancel = s.cancel := rfl
@[simp] theorem State.writeCtrl_cause (s : State) (v : Word) : (s.writeCtrl v).cause = s.cause := rfl
@[simp] theorem State.writeCtrl_freg (s : State) (v : Word) : (s.writeCtrl v).freg = s.freg := rfl
@[simp] theorem State.writeCtrl_finfo (s : State) (v : Word) : (s.writeCtrl v).finfo = s.finfo := rfl
@[simp] theorem State.writeCtrl_clkFreq (s : State) (v : Word) : (s.writeCtrl v).clkFreq = s.clkFreq := rfl
@[simp] theorem State.writeCtrl_outRate (s : State) (v : Word) : (s.writeCtrl v).outRate = s.outRate := rfl
@[simp] theorem State.writeCtrl_duration (s : State) (v : Word) : (s.writeCtrl v).duration = s.duration := rfl
@[simp] theorem State.writeCtrl_acc (s : State) (v : Word) : (s.writeCtrl v).acc = s.acc := rfl
@[simp] theorem State.writeCtrl_holdL (s : State) (v : Word) : (s.writeCtrl v).holdL = s.holdL := rfl
@[simp] theorem State.writeCtrl_holdR (s : State) (v : Word) : (s.writeCtrl v).holdR = s.holdR := rfl
@[simp] theorem State.writeCtrl_vcfg (s : State) (v : Word) : (s.writeCtrl v).vcfg = s.vcfg := rfl
@[simp] theorem State.writeCtrl_keyed (s : State) (v : Word) : (s.writeCtrl v).keyed = s.keyed := rfl
@[simp] theorem State.writeCtrl_written (s : State) (v : Word) : (s.writeCtrl v).written = s.written := rfl
@[simp] theorem State.writeCtrl_phase (s : State) (v : Word) : (s.writeCtrl v).phase = s.phase := rfl
@[simp] theorem State.writeCtrl_remain (s : State) (v : Word) : (s.writeCtrl v).remain = s.remain := rfl
@[simp] theorem State.writeCtrl_playAfter (s : State) (v : Word) : (s.writeCtrl v).playAfter = s.playAfter := rfl
@[simp] theorem State.writeCtrl_playBlk (s : State) (v : Word) : (s.writeCtrl v).playBlk = s.playBlk := rfl
@[simp] theorem State.writeCtrl_chip (s : State) (v : Word) : (s.writeCtrl v).chip = s.chip := rfl
@[simp] theorem State.writeCtrl_chipHistory (s : State) (v : Word) : (s.writeCtrl v).chipHistory = s.chipHistory := rfl
@[simp] theorem State.writeCtrl_outHistory (s : State) (v : Word) : (s.writeCtrl v).outHistory = s.outHistory := rfl

/-! ### writeStatus -/

@[simp] theorem State.writeStatus_chipPresent (s : State) (v : Word) : (s.writeStatus v).chipPresent = s.chipPresent := rfl
@[simp] theorem State.writeStatus_konShift (s : State) (v : Word) : (s.writeStatus v).konShift = s.konShift := rfl
@[simp] theorem State.writeStatus_bus (s : State) (v : Word) : (s.writeStatus v).bus = s.bus := rfl
@[simp] theorem State.writeStatus_arrivals (s : State) (v : Word) : (s.writeStatus v).arrivals = s.arrivals := rfl
@[simp] theorem State.writeStatus_responses (s : State) (v : Word) : (s.writeStatus v).responses = s.responses := rfl
@[simp] theorem State.writeStatus_strict (s : State) (v : Word) : (s.writeStatus v).strict = s.strict := rfl
@[simp] theorem State.writeStatus_rnd (s : State) (v : Word) : (s.writeStatus v).rnd = s.rnd := rfl
@[simp] theorem State.writeStatus_fault (s : State) (v : Word) : (s.writeStatus v).fault = s.fault := rfl
@[simp] theorem State.writeStatus_sinkErr (s : State) (v : Word) : (s.writeStatus v).sinkErr = (s.sinkErr && !v.getLsbD 1) := rfl
@[simp] theorem State.writeStatus_cancel (s : State) (v : Word) : (s.writeStatus v).cancel = (s.cancel && !v.getLsbD 2) := rfl
@[simp] theorem State.writeStatus_cause (s : State) (v : Word) : (s.writeStatus v).cause = s.cause := rfl
@[simp] theorem State.writeStatus_freg (s : State) (v : Word) : (s.writeStatus v).freg = s.freg := rfl
@[simp] theorem State.writeStatus_finfo (s : State) (v : Word) : (s.writeStatus v).finfo = s.finfo := rfl
@[simp] theorem State.writeStatus_clkFreq (s : State) (v : Word) : (s.writeStatus v).clkFreq = s.clkFreq := rfl
@[simp] theorem State.writeStatus_outRate (s : State) (v : Word) : (s.writeStatus v).outRate = s.outRate := rfl
@[simp] theorem State.writeStatus_duration (s : State) (v : Word) : (s.writeStatus v).duration = s.duration := rfl
@[simp] theorem State.writeStatus_acc (s : State) (v : Word) : (s.writeStatus v).acc = s.acc := rfl
@[simp] theorem State.writeStatus_holdL (s : State) (v : Word) : (s.writeStatus v).holdL = s.holdL := rfl
@[simp] theorem State.writeStatus_holdR (s : State) (v : Word) : (s.writeStatus v).holdR = s.holdR := rfl
@[simp] theorem State.writeStatus_vcfg (s : State) (v : Word) : (s.writeStatus v).vcfg = s.vcfg := rfl
@[simp] theorem State.writeStatus_keyed (s : State) (v : Word) : (s.writeStatus v).keyed = s.keyed := rfl
@[simp] theorem State.writeStatus_written (s : State) (v : Word) : (s.writeStatus v).written = s.written := rfl
@[simp] theorem State.writeStatus_phase (s : State) (v : Word) : (s.writeStatus v).phase = s.phase := rfl
@[simp] theorem State.writeStatus_remain (s : State) (v : Word) : (s.writeStatus v).remain = s.remain := rfl
@[simp] theorem State.writeStatus_playAfter (s : State) (v : Word) : (s.writeStatus v).playAfter = s.playAfter := rfl
@[simp] theorem State.writeStatus_playBlk (s : State) (v : Word) : (s.writeStatus v).playBlk = s.playBlk := rfl
@[simp] theorem State.writeStatus_chip (s : State) (v : Word) : (s.writeStatus v).chip = s.chip := rfl
@[simp] theorem State.writeStatus_chipHistory (s : State) (v : Word) : (s.writeStatus v).chipHistory = s.chipHistory := rfl
@[simp] theorem State.writeStatus_outHistory (s : State) (v : Word) : (s.writeStatus v).outHistory = s.outHistory := rfl

/-! ### writeVcfg -/

@[simp] theorem State.writeVcfg_chipPresent (s : State) (i : Nat) (v : Word) : (s.writeVcfg i v).chipPresent = s.chipPresent := rfl
@[simp] theorem State.writeVcfg_konShift (s : State) (i : Nat) (v : Word) : (s.writeVcfg i v).konShift = s.konShift := rfl
@[simp] theorem State.writeVcfg_bus (s : State) (i : Nat) (v : Word) : (s.writeVcfg i v).bus = s.bus := rfl
@[simp] theorem State.writeVcfg_arrivals (s : State) (i : Nat) (v : Word) : (s.writeVcfg i v).arrivals = s.arrivals := rfl
@[simp] theorem State.writeVcfg_responses (s : State) (i : Nat) (v : Word) : (s.writeVcfg i v).responses = s.responses := rfl
@[simp] theorem State.writeVcfg_strict (s : State) (i : Nat) (v : Word) : (s.writeVcfg i v).strict = s.strict := rfl
@[simp] theorem State.writeVcfg_rnd (s : State) (i : Nat) (v : Word) : (s.writeVcfg i v).rnd = s.rnd := rfl
@[simp] theorem State.writeVcfg_fault (s : State) (i : Nat) (v : Word) : (s.writeVcfg i v).fault = s.fault := rfl
@[simp] theorem State.writeVcfg_sinkErr (s : State) (i : Nat) (v : Word) : (s.writeVcfg i v).sinkErr = s.sinkErr := rfl
@[simp] theorem State.writeVcfg_cancel (s : State) (i : Nat) (v : Word) : (s.writeVcfg i v).cancel = s.cancel := rfl
@[simp] theorem State.writeVcfg_cause (s : State) (i : Nat) (v : Word) : (s.writeVcfg i v).cause = s.cause := rfl
@[simp] theorem State.writeVcfg_freg (s : State) (i : Nat) (v : Word) : (s.writeVcfg i v).freg = s.freg := rfl
@[simp] theorem State.writeVcfg_finfo (s : State) (i : Nat) (v : Word) : (s.writeVcfg i v).finfo = s.finfo := rfl
@[simp] theorem State.writeVcfg_clkFreq (s : State) (i : Nat) (v : Word) : (s.writeVcfg i v).clkFreq = s.clkFreq := rfl
@[simp] theorem State.writeVcfg_outRate (s : State) (i : Nat) (v : Word) : (s.writeVcfg i v).outRate = s.outRate := rfl
@[simp] theorem State.writeVcfg_duration (s : State) (i : Nat) (v : Word) : (s.writeVcfg i v).duration = s.duration := rfl
@[simp] theorem State.writeVcfg_acc (s : State) (i : Nat) (v : Word) : (s.writeVcfg i v).acc = s.acc := rfl
@[simp] theorem State.writeVcfg_holdL (s : State) (i : Nat) (v : Word) : (s.writeVcfg i v).holdL = s.holdL := rfl
@[simp] theorem State.writeVcfg_holdR (s : State) (i : Nat) (v : Word) : (s.writeVcfg i v).holdR = s.holdR := rfl
@[simp] theorem State.writeVcfg_vcfg (s : State) (i : Nat) (v : Word) : (s.writeVcfg i v).vcfg = s.vcfg.setWord i v := rfl
@[simp] theorem State.writeVcfg_keyed (s : State) (i : Nat) (v : Word) : (s.writeVcfg i v).keyed = s.keyed := rfl
@[simp] theorem State.writeVcfg_written (s : State) (i : Nat) (v : Word) : (s.writeVcfg i v).written = s.written := rfl
@[simp] theorem State.writeVcfg_phase (s : State) (i : Nat) (v : Word) : (s.writeVcfg i v).phase = s.phase := rfl
@[simp] theorem State.writeVcfg_remain (s : State) (i : Nat) (v : Word) : (s.writeVcfg i v).remain = s.remain := rfl
@[simp] theorem State.writeVcfg_playAfter (s : State) (i : Nat) (v : Word) : (s.writeVcfg i v).playAfter = s.playAfter := rfl
@[simp] theorem State.writeVcfg_playBlk (s : State) (i : Nat) (v : Word) : (s.writeVcfg i v).playBlk = s.playBlk := rfl
@[simp] theorem State.writeVcfg_chip (s : State) (i : Nat) (v : Word) : (s.writeVcfg i v).chip = s.chip := rfl
@[simp] theorem State.writeVcfg_chipHistory (s : State) (i : Nat) (v : Word) : (s.writeVcfg i v).chipHistory = s.chipHistory := rfl
@[simp] theorem State.writeVcfg_outHistory (s : State) (i : Nat) (v : Word) : (s.writeVcfg i v).outHistory = s.outHistory := rfl

/-! ### emitHold -/

@[simp] theorem State.emitHold_chipPresent (s : State) : (s.emitHold).chipPresent = s.chipPresent := rfl
@[simp] theorem State.emitHold_konShift (s : State) : (s.emitHold).konShift = s.konShift := rfl
@[simp] theorem State.emitHold_bus (s : State) : (s.emitHold).bus = s.bus := rfl
@[simp] theorem State.emitHold_arrivals (s : State) : (s.emitHold).arrivals = s.arrivals := rfl
@[simp] theorem State.emitHold_responses (s : State) : (s.emitHold).responses = s.responses := rfl
@[simp] theorem State.emitHold_strict (s : State) : (s.emitHold).strict = s.strict := rfl
@[simp] theorem State.emitHold_rnd (s : State) : (s.emitHold).rnd = s.rnd := rfl
@[simp] theorem State.emitHold_fault (s : State) : (s.emitHold).fault = s.fault := rfl
@[simp] theorem State.emitHold_sinkErr (s : State) : (s.emitHold).sinkErr = s.sinkErr := rfl
@[simp] theorem State.emitHold_cancel (s : State) : (s.emitHold).cancel = s.cancel := rfl
@[simp] theorem State.emitHold_cause (s : State) : (s.emitHold).cause = s.cause := rfl
@[simp] theorem State.emitHold_freg (s : State) : (s.emitHold).freg = s.freg := rfl
@[simp] theorem State.emitHold_finfo (s : State) : (s.emitHold).finfo = s.finfo := rfl
@[simp] theorem State.emitHold_clkFreq (s : State) : (s.emitHold).clkFreq = s.clkFreq := rfl
@[simp] theorem State.emitHold_outRate (s : State) : (s.emitHold).outRate = s.outRate := rfl
@[simp] theorem State.emitHold_duration (s : State) : (s.emitHold).duration = s.duration := rfl
@[simp] theorem State.emitHold_acc (s : State) : (s.emitHold).acc = s.acc := rfl
@[simp] theorem State.emitHold_holdL (s : State) : (s.emitHold).holdL = s.holdL := rfl
@[simp] theorem State.emitHold_holdR (s : State) : (s.emitHold).holdR = s.holdR := rfl
@[simp] theorem State.emitHold_vcfg (s : State) : (s.emitHold).vcfg = s.vcfg := rfl
@[simp] theorem State.emitHold_keyed (s : State) : (s.emitHold).keyed = s.keyed := rfl
@[simp] theorem State.emitHold_written (s : State) : (s.emitHold).written = s.written := rfl
@[simp] theorem State.emitHold_phase (s : State) : (s.emitHold).phase = s.phase := rfl
@[simp] theorem State.emitHold_remain (s : State) : (s.emitHold).remain = s.remain := rfl
@[simp] theorem State.emitHold_playAfter (s : State) : (s.emitHold).playAfter = s.playAfter := rfl
@[simp] theorem State.emitHold_playBlk (s : State) : (s.emitHold).playBlk = s.playBlk := rfl
@[simp] theorem State.emitHold_chip (s : State) : (s.emitHold).chip = s.chip := rfl
@[simp] theorem State.emitHold_chipHistory (s : State) : (s.emitHold).chipHistory = s.chipHistory := rfl
@[simp] theorem State.emitHold_outHistory (s : State) : (s.emitHold).outHistory = s.outHistory ++ [.sample (norm s.holdL) (norm s.holdR)] := rfl

/-! ### startGen -/

@[simp] theorem State.startGen_chipPresent (s : State) (n : BitVec 40) (p b : Bool) : (s.startGen n p b).chipPresent = s.chipPresent := rfl
@[simp] theorem State.startGen_konShift (s : State) (n : BitVec 40) (p b : Bool) : (s.startGen n p b).konShift = s.konShift := rfl
@[simp] theorem State.startGen_bus (s : State) (n : BitVec 40) (p b : Bool) : (s.startGen n p b).bus = s.bus := rfl
@[simp] theorem State.startGen_arrivals (s : State) (n : BitVec 40) (p b : Bool) : (s.startGen n p b).arrivals = s.arrivals := rfl
@[simp] theorem State.startGen_responses (s : State) (n : BitVec 40) (p b : Bool) : (s.startGen n p b).responses = s.responses := rfl
@[simp] theorem State.startGen_strict (s : State) (n : BitVec 40) (p b : Bool) : (s.startGen n p b).strict = s.strict := rfl
@[simp] theorem State.startGen_rnd (s : State) (n : BitVec 40) (p b : Bool) : (s.startGen n p b).rnd = s.rnd := rfl
@[simp] theorem State.startGen_fault (s : State) (n : BitVec 40) (p b : Bool) : (s.startGen n p b).fault = s.fault := rfl
@[simp] theorem State.startGen_sinkErr (s : State) (n : BitVec 40) (p b : Bool) : (s.startGen n p b).sinkErr = s.sinkErr := rfl
@[simp] theorem State.startGen_cancel (s : State) (n : BitVec 40) (p b : Bool) : (s.startGen n p b).cancel = s.cancel := rfl
@[simp] theorem State.startGen_cause (s : State) (n : BitVec 40) (p b : Bool) : (s.startGen n p b).cause = s.cause := rfl
@[simp] theorem State.startGen_freg (s : State) (n : BitVec 40) (p b : Bool) : (s.startGen n p b).freg = s.freg := rfl
@[simp] theorem State.startGen_finfo (s : State) (n : BitVec 40) (p b : Bool) : (s.startGen n p b).finfo = s.finfo := rfl
@[simp] theorem State.startGen_clkFreq (s : State) (n : BitVec 40) (p b : Bool) : (s.startGen n p b).clkFreq = s.clkFreq := rfl
@[simp] theorem State.startGen_outRate (s : State) (n : BitVec 40) (p b : Bool) : (s.startGen n p b).outRate = s.outRate := rfl
@[simp] theorem State.startGen_duration (s : State) (n : BitVec 40) (p b : Bool) : (s.startGen n p b).duration = s.duration := rfl
@[simp] theorem State.startGen_acc (s : State) (n : BitVec 40) (p b : Bool) : (s.startGen n p b).acc = s.acc := rfl
@[simp] theorem State.startGen_holdL (s : State) (n : BitVec 40) (p b : Bool) : (s.startGen n p b).holdL = s.holdL := rfl
@[simp] theorem State.startGen_holdR (s : State) (n : BitVec 40) (p b : Bool) : (s.startGen n p b).holdR = s.holdR := rfl
@[simp] theorem State.startGen_vcfg (s : State) (n : BitVec 40) (p b : Bool) : (s.startGen n p b).vcfg = s.vcfg := rfl
@[simp] theorem State.startGen_keyed (s : State) (n : BitVec 40) (p b : Bool) : (s.startGen n p b).keyed = s.keyed := rfl
@[simp] theorem State.startGen_written (s : State) (n : BitVec 40) (p b : Bool) : (s.startGen n p b).written = s.written := rfl
@[simp] theorem State.startGen_phase (s : State) (n : BitVec 40) (p b : Bool) : (s.startGen n p b).phase = .gen := rfl
@[simp] theorem State.startGen_remain (s : State) (n : BitVec 40) (p b : Bool) : (s.startGen n p b).remain = n := rfl
@[simp] theorem State.startGen_playAfter (s : State) (n : BitVec 40) (p b : Bool) : (s.startGen n p b).playAfter = p := rfl
@[simp] theorem State.startGen_playBlk (s : State) (n : BitVec 40) (p b : Bool) : (s.startGen n p b).playBlk = b := rfl
@[simp] theorem State.startGen_chip (s : State) (n : BitVec 40) (p b : Bool) : (s.startGen n p b).chip = s.chip := rfl
@[simp] theorem State.startGen_chipHistory (s : State) (n : BitVec 40) (p b : Bool) : (s.startGen n p b).chipHistory = s.chipHistory := rfl
@[simp] theorem State.startGen_outHistory (s : State) (n : BitVec 40) (p b : Bool) : (s.startGen n p b).outHistory = s.outHistory := rfl

end Sys2Proof.Machine
end

