-- ==== Sys2Proof/Laws/Chip.lean ====
section
/-! SUPPORT. Why `Config.chipSample` stands for every CHIP of spec/00_scope.md R10 (log 1): any engine's state after a
reset is a function of the operations since, and its samples are those of one `ChipSample`. -/

namespace Sys2Proof.Machine

/-- The state of an engine (reset state `r`, functions `wr` and `ck`) after a list of operations since its reset. -/
def replay {σ : Type} (r : σ) (wr : σ → BitVec 1 → Byte → σ) (ck : σ → σ × Word × Word) (ops : ChipState) : σ :=
  ops.foldl (fun c o => match o with
    | .write p d => wr c p d
    | .clock => (ck c).1) r

/-- The ChipSample of an engine. -/
def sampleOf {σ : Type} (r : σ) (wr : σ → BitVec 1 → Byte → σ) (ck : σ → σ × Word × Word) : ChipSample :=
  fun c => (ck (replay r wr ck c)).2

/-- The model's three chip functions commute with any engine's own (R10). -/
theorem chip_functions_represent_every_engine {σ : Type} (r : σ) (wr : σ → BitVec 1 → Byte → σ)
    (ck : σ → σ × Word × Word) (c : ChipState) (p : BitVec 1) (d : Byte) :
    replay r wr ck (chipResetFn c) = r ∧
    replay r wr ck (chipWriteFn c p d) = wr (replay r wr ck c) p d ∧
    replay r wr ck (chipClockFn (sampleOf r wr ck) c).1 = (ck (replay r wr ck c)).1 ∧
    (chipClockFn (sampleOf r wr ck) c).2 = (ck (replay r wr ck c)).2 := by
  refine ⟨rfl, ?_, ?_, rfl⟩
  · simp [replay, chipWriteFn]
  · simp [replay, chipClockFn, chipClockNext]

end Sys2Proof.Machine
end

