-- ==== Sys2Proof/Laws/Ops.lean ====
section
/-! SUPPORT. What the shared operations can do, each said once: `RegWrite` and its sequences, the reset sequence, the
taking of events. -/

namespace Sys2Proof.Machine

/-! ### The chip -/

/-- The ChipState is the list of operations since the last reset (log 1). -/
@[simp] theorem foldl_chipApply (ops : List ChipOp) (c : ChipState) : ops.foldl chipApply c = c ++ ops := by
  induction ops generalizing c with
  | nil => simp
  | cons o rest ih => cases o <;> simp [chipApply, chipWriteFn, chipClockNext, ih]

theorem chipAfterClocks_eq (k : Nat) (c : ChipState) : chipAfterClocks c k = c ++ List.replicate k .clock := by
  induction k generalizing c with
  | zero => simp [chipAfterClocks]
  | succ k ih => simp [chipAfterClocks, ih, chipClockNext, List.replicate_succ]

/-! ### RegWrite -/

/-- Every chip write goes on or raises PROTO, and nothing else (spec/20_memory.md R62). -/
theorem State.regWrite_eq (s : State) (w : Word) (a v : Byte) :
    s.regWrite w a v =
      if s.protoViolation a v then .error (s.recorded .proto w a) else .ok ((s.portPair a v).track a v) := rfl

theorem State.regWrite_of_not_strict {s : State} (h : s.strict = false) (w : Word) (a v : Byte) :
    s.regWrite w a v = .ok ((s.portPair a v).track a v) := by
  simp [State.regWrite, State.protoViolation, h]

/-- The state a sequence of register writes leads to when none of them raises. -/
def State.afterWrites (s : State) : List (Byte × Byte) → State
  | [] => s
  | (a, v) :: rest => ((s.portPair a v).track a v).afterWrites rest

/-- A sequence of writes changes the chip, its history, KEYED and WRITTEN only, and appends whole address-data pairs
(spec/20_memory.md R61). -/
theorem State.afterWrites_eq (s : State) (ws : List (Byte × Byte)) :
    s.afterWrites ws = { s.issued (pairOps ws) with
      written := ws.foldl (fun b p => trackWritten b p.1) s.written
      keyed := ws.foldl (fun b p => trackKeyed s.konShift b p.1 p.2) s.keyed } := by
  induction ws generalizing s with
  | nil => simp [State.afterWrites, State.issued, pairOps]
  | cons p rest ih =>
    obtain ⟨a, v⟩ := p
    rw [State.afterWrites, ih]
    simp [State.issued, pairOps, State.track, State.portPair, State.chipWrite, chipWriteFn, chipApply]

/-- Writing one after the other leads where `State.throughWrites` says. -/
theorem State.afterWrites_eq_throughWrites (s : State) (ws : List (Byte × Byte)) :
    s.afterWrites ws = s.throughWrites ws := s.afterWrites_eq ws

/-- No write of the sequence raises PROTO where it stands (spec/20_memory.md R62, step 1). -/
def State.WritesPass (s : State) (ws : List (Byte × Byte)) : Prop :=
  ∀ done a v rest, ws = done ++ (a, v) :: rest → (s.afterWrites done).protoViolation a v = false

theorem State.writesPass_nil (s : State) : s.WritesPass [] := by
  intro done a v rest h
  simp at h

theorem State.writesPass_cons {s : State} {a v : Byte} {rest : List (Byte × Byte)}
    (h : s.protoViolation a v = false) (hr : ((s.portPair a v).track a v).WritesPass rest) :
    s.WritesPass ((a, v) :: rest) := by
  intro done b x tail hw
  cases done with
  | nil =>
    simp only [List.nil_append, List.cons.injEq, Prod.mk.injEq] at hw
    rw [← hw.1.1, ← hw.1.2]
    exact h
  | cons p d =>
    simp only [List.cons_append, List.cons.injEq] at hw
    rw [← hw.1]
    exact hr d b x tail hw.2

/-- A sequence of writes passes, or ends at its first violating write. -/
theorem State.tryWrites_cases (s : State) (w : Word) (ws : List (Byte × Byte)) :
    (s.WritesPass ws ∧ s.tryWrites w ws = .ok (s.afterWrites ws)) ∨
      ∃ done a v rest, ws = done ++ (a, v) :: rest ∧ s.WritesPass done ∧
        (s.afterWrites done).protoViolation a v = true ∧ s.tryWrites w ws = .error a := by
  induction ws generalizing s with
  | nil => exact .inl ⟨s.writesPass_nil, rfl⟩
  | cons p rest ih =>
    obtain ⟨a, v⟩ := p
    by_cases hv : s.protoViolation a v = true
    · exact .inr ⟨[], a, v, rest, rfl, s.writesPass_nil, hv, by simp [State.tryWrites, State.regWrite_eq, hv]⟩
    · have hw : s.tryWrites w ((a, v) :: rest) = ((s.portPair a v).track a v).tryWrites w rest := by
        simp [State.tryWrites, State.regWrite_eq, hv]
      have hv' : s.protoViolation a v = false := by simpa using hv
      rcases ih ((s.portPair a v).track a v) with ⟨hp, h⟩ | ⟨done, b, x, r, rfl, hp, h, he⟩
      · exact .inl ⟨State.writesPass_cons hv' hp, by rw [hw, h, State.afterWrites]⟩
      · exact .inr ⟨(a, v) :: done, b, x, r, rfl, State.writesPass_cons hv' hp, h, by rw [hw, he]⟩

/-- A command's writes are all issued, or PROTO is recorded for the first that violates where it stands and nothing else
has changed (spec/40_register_programmer.md R113). -/
theorem State.regWrites_cases (s : State) (w : Word) (ws : List (Byte × Byte)) :
    (s.WritesPass ws ∧ s.regWrites w ws = .ok (s.afterWrites ws)) ∨
      ∃ done a v rest, ws = done ++ (a, v) :: rest ∧ s.WritesPass done ∧
        (s.afterWrites done).protoViolation a v = true ∧ s.regWrites w ws = .error (s.recorded .proto w a) := by
  rcases s.tryWrites_cases w ws with ⟨hp, h⟩ | ⟨done, a, v, rest, hw, hp, hv, h⟩
  · exact .inl ⟨hp, by rw [State.regWrites, h]⟩
  · exact .inr ⟨done, a, v, rest, hw, hp, hv, by rw [State.regWrites, h]; rfl⟩

/-- A sequence none of whose writes violates completes. -/
theorem State.regWrites_ok {s : State} {w : Word} {ws : List (Byte × Byte)} (h : s.WritesPass ws) :
    s.regWrites w ws = .ok (s.afterWrites ws) := by
  rcases s.regWrites_cases w ws with ⟨-, h'⟩ | ⟨done, a, v, rest, hw, -, hv, -⟩
  · exact h'
  · simp [h done a v rest hw] at hv

/-- A sequence whose writes before (a, v) pass and whose (a, v) then violates records PROTO for a. -/
theorem State.regWrites_error {s : State} {w : Word} {done rest : List (Byte × Byte)} {a v : Byte}
    (hp : s.WritesPass done) (hv : (s.afterWrites done).protoViolation a v = true) :
    s.regWrites w (done ++ (a, v) :: rest) = .error (s.recorded .proto w a) := by
  suffices h : s.tryWrites w (done ++ (a, v) :: rest) = .error a by rw [State.regWrites, h]; rfl
  induction done generalizing s with
  | nil =>
    have hv' : s.protoViolation a v = true := hv
    simp [State.tryWrites, State.regWrite_eq, hv']
  | cons p d ih =>
    obtain ⟨b, x⟩ := p
    have hb : s.protoViolation b x = false := hp [] b x d rfl
    simp only [List.cons_append, State.tryWrites, State.regWrite_eq, hb, Bool.false_eq_true, if_false]
    exact ih (fun e c y tail he => hp ((b, x) :: e) c y tail (by rw [he]; rfl)) hv

/-- One register write is a sequence of one. -/
theorem State.regWrite_eq_regWrites (s : State) (w : Word) (a v : Byte) :
    s.regWrite w a v = s.regWrites w [(a, v)] := by
  cases hv : s.protoViolation a v <;> simp [State.regWrites, State.tryWrites, State.regWrite_eq, hv, State.raiseFault,
    State.recorded]

@[simp] theorem endCommand_ok (s : State) : endCommand (.ok s) = .next s := rfl
@[simp] theorem endCommand_error (s : State) : endCommand (.error s) = .next s := rfl

/-! ### Reset -/

/-- The reset sequence gives the power-on state, keeps the strap and the host's side, and extends the chip history
(spec/70_reset_and_hazards.md R211). -/
theorem State.resetSequence_eq (s : State) (b : Bool) :
    s.resetSequence b = { State.powerOn s.chipPresent s.konShift with
      cancel := b, bus := s.bus, arrivals := s.arrivals, responses := s.responses
      chipHistory := s.chipHistory ++ (if s.chipPresent then [.reset] else [])
      outHistory := s.outHistory } := by
  cases h : s.chipPresent <;>
    simp [State.resetSequence, h, State.powerOn, State.chipReset, chipResetFn, State.clearRegisters, State.raiseFault]

/-! ### Events -/

/-- The four inputs at a taking point, in the order of spec/60_exceptions.md R191. -/
theorem State.takeEvents_cases (s : State) (a : Arrivals) :
    (a.hwreset = true ∧ s.takeEvents a = s.resetSequence false) ∨
    (a.hwreset = false ∧ a.abort = true ∧ s.takeEvents a = ((s.emit .stop).emit .discard).resetSequence true) ∨
    (a.hwreset = false ∧ a.abort = false ∧ a.sinkError = true ∧ s.takeEvents a = s.takeSinkError) ∨
    (a.hwreset = false ∧ a.abort = false ∧ a.sinkError = false ∧ a.sinkDone = true ∧
      s.takeEvents a = s.takeSinkDone) ∨
    (a.any = false ∧ s.takeEvents a = s) := by
  obtain ⟨h, b, e, d⟩ := a
  cases h <;> cases b <;> cases e <;> cases d <;> cases hp : s.phase <;>
    simp [State.takeEvents, State.takeHwreset, State.takeAbort, State.takeSinkError, State.takeSinkDone,
      Arrivals.any, hp, State.emit]

theorem State.takeEvents_of_quiet {s : State} {a : Arrivals} (h : a.any = false) : s.takeEvents a = s := by
  obtain ⟨x, y, z, u⟩ := a
  cases x <;> cases y <;> cases z <;> cases u <;> simp_all [State.takeEvents, Arrivals.any]

theorem State.takingPoint_of_quiet {s : State} (h : s.quiet) : s.takingPoint = s.passPoint :=
  State.takeEvents_of_quiet h

end Sys2Proof.Machine
end

