-- ==== Sys2Proof/Laws/PerInstr.lean ====
section
/-! SUPPORT. Statements about every instruction as syntax, one lemma per constructor. -/

namespace Sys2Proof.Laws.EncodingRow

open Sys2Proof

/-- The word of a well-formed command selects the row of its mnemonic (spec/30_encoding.md R84). -/
def Statement (i : Instr) : Prop := i.wellFormed = true → i.row.selects (encode i) = true

/-- A row other than OPSET's selects a word by mask and match alone. -/
theorem selects_of_masked {r : OpcodeRow} {w : Word} (hm : w &&& r.mask = r.mtch) (hr : r.mtch ≠ 0x04000000#32) :
    r.selects w = true := by
  simp [OpcodeRow.selects, OpcodeRow.extra, hm, hr]

theorem nop : Statement .nop := fun _ => by decide

theorem creset : Statement .creset := fun _ => by decide

theorem wreg (addr val : Byte) : Statement (.wreg addr val) := by
  intro _
  refine selects_of_masked ?_ (by simp [Instr.row])
  apply BitVec.eq_of_getElem_eq
  intro i hi
  interval_cases i <;> simp [encode, place, opBits, Instr.row]

theorem chset (ch sel : BitVec 3) (val : Byte) : Statement (.chset ch sel val) := by
  intro h
  have h2 : sel[2] = false := by
    revert h; revert sel; simp only [Instr.wellFormed]; decide
  refine selects_of_masked ?_ (by simp [Instr.row])
  apply BitVec.eq_of_getElem_eq
  intro i hi
  interval_cases i <;> simp [encode, place, opBits, Instr.row, h2]

theorem opset (ch : BitVec 3) (op : BitVec 2) (sel : BitVec 3) (val : Byte) : Statement (.opset ch op sel val) := by
  intro h
  have hs : selField (encode (.opset ch op sel val)) = sel := by
    apply BitVec.eq_of_getElem_eq
    intro i hi
    interval_cases i <;> simp [encode, place, opBits, selField]
  have hm : encode (.opset ch op sel val) &&& 0xFF00FF00#32 = 0x04000000#32 := by
    apply BitVec.eq_of_getElem_eq
    intro i hi
    interval_cases i <;> simp [encode, place, opBits]
  simp only [Instr.wellFormed] at h
  simp [OpcodeRow.selects, OpcodeRow.extra, Instr.row, hm, hs, h]

theorem keyon (ch : BitVec 3) (mask : BitVec 4) : Statement (.keyon ch mask) := by
  intro _
  refine selects_of_masked ?_ (by simp [Instr.row])
  apply BitVec.eq_of_getElem_eq
  intro i hi
  interval_cases i <;> simp [encode, place, opBits, Instr.row]

theorem keyoff (ch : BitVec 3) : Statement (.keyoff ch) := by
  intro _
  refine selects_of_masked ?_ (by simp [Instr.row])
  apply BitVec.eq_of_getElem_eq
  intro i hi
  interval_cases i <;> simp [encode, place, opBits, Instr.row]

theorem voice (ch : BitVec 3) : Statement (.voice ch) := by
  intro _
  refine selects_of_masked ?_ (by simp [Instr.row])
  apply BitVec.eq_of_getElem_eq
  intro i hi
  interval_cases i <;> simp [encode, place, opBits, Instr.row]

theorem note (ch : BitVec 3) (mask : BitVec 4) : Statement (.note ch mask) := by
  intro _
  refine selects_of_masked ?_ (by simp [Instr.row])
  apply BitVec.eq_of_getElem_eq
  intro i hi
  interval_cases i <;> simp [encode, place, opBits, Instr.row]

theorem rsinit : Statement .rsinit := fun _ => by decide

theorem gen (n : BitVec 24) : Statement (.gen n) := by
  intro _
  refine selects_of_masked ?_ (by simp [Instr.row])
  apply BitVec.eq_of_getElem_eq
  intro i hi
  interval_cases i <;> simp [encode, place, opBits, Instr.row]

theorem run (b : Bool) : Statement (.run b) := fun _ => by cases b <;> decide

theorem play (b : Bool) : Statement (.play b) := fun _ => by cases b <;> decide

theorem stop : Statement .stop := fun _ => by decide

end Sys2Proof.Laws.EncodingRow
end

