-- ==== Sys2Proof/Laws/Resampler.lean ====
section
/-! SUPPORT. The output step and the generation phase, each said once (spec/41_resampler.md R140, R149). -/

namespace Sys2Proof.Machine

/-- The sum over n native cycles of one channel of the engine's samples, from the ChipState c on. -/
def clockSum (f : ChipState → Word) (c : ChipState) (n : Nat) : Int :=
  ((List.range n).map fun k => (f (c ++ List.replicate k .clock)).toInt).sum

theorem clockSum_succ (f : ChipState → Word) (c : ChipState) (n : Nat) :
    clockSum f c (n + 1) = (f c).toInt + clockSum f (c ++ [.clock]) n := by
  simp only [clockSum, List.range_succ_eq_map, List.map_cons, List.map_map, List.sum_cons, List.replicate_zero,
    List.append_nil]
  congr 2
  apply List.map_congr_left
  intro k _
  simp [List.replicate_succ, List.append_assoc]

/-- n transactions `ChipClock()` change the chip and its history only, and sum what the engine returned. -/
theorem clockMany_eq (chip : ChipSample) (n : Nat) (s : State) (l r : Int) :
    clockMany chip n s l r =
      (s.issued (List.replicate n .clock), l + clockSum (fun c => (chip c).1) s.chip n,
        r + clockSum (fun c => (chip c).2) s.chip n) := by
  induction n generalizing s l r with
  | zero => simp [clockMany, State.issued, clockSum]
  | succ n ih =>
    rw [clockMany, ih]
    simp only [clockSum_succ, State.chipClock, chipClockFn, chipClockNext, State.issued, Prod.mk.injEq]
    refine ⟨?_, by ring, by ring⟩
    simp [List.replicate_succ, List.append_assoc, chipApply, chipClockNext]

/-- The pair HOLD holds after n native cycles (R140 to R142). -/
def heldAfter (s : State) (f : ChipState → Word) (held : Word) (n : Nat) : Word :=
  if n = 0 then held else BitVec.ofInt 32 (avg s.rnd (clockSum f s.chip n) n)

/-- An output step, written out: everything it changes (R140). -/
theorem State.outputStep_eq (s : State) (chip : ChipSample) :
    s.outputStep chip =
      { s.issued (List.replicate s.nativeCycles .clock) with
        acc := s.nextAcc
        holdL := heldAfter s (fun c => (chip c).1) s.holdL s.nativeCycles
        holdR := heldAfter s (fun c => (chip c).2) s.holdR s.nativeCycles
        outHistory := s.outHistory ++ [.sample
          (norm (heldAfter s (fun c => (chip c).1) s.holdL s.nativeCycles))
          (norm (heldAfter s (fun c => (chip c).2) s.holdR s.nativeCycles))] } := by
  by_cases h : s.nativeCycles = 0
  · simp [State.outputStep, State.consume, h, heldAfter, State.emitHold, State.emit, State.issued]
  · simp [State.outputStep, State.consume, h, heldAfter, clockMany_eq, State.emitHold, State.emit, State.issued]

/-- An output step reads neither the sequencing state nor the host's side. -/
theorem State.outputStep_frame (s : State) (chip : ChipSample) (n : BitVec 40) (p : Phase) (x y : Bool)
    (ar : List Arrivals) :
    State.outputStep { s with remain := n, phase := p, playAfter := x, playBlk := y, arrivals := ar } chip =
      { s.outputStep chip with remain := n, phase := p, playAfter := x, playBlk := y, arrivals := ar } := by
  simp only [State.outputStep_eq]
  rfl

theorem State.outputSteps_succ (s : State) (chip : ChipSample) (k : Nat) :
    s.outputSteps chip (k + 1) = (s.outputStep chip).outputSteps chip k := rfl

/-- k output steps read neither the sequencing state nor the host's side. -/
theorem State.outputSteps_frame (s : State) (chip : ChipSample) (k : Nat) (n : BitVec 40) (p : Phase) (x y : Bool)
    (ar : List Arrivals) :
    State.outputSteps { s with remain := n, phase := p, playAfter := x, playBlk := y, arrivals := ar } chip k =
      { s.outputSteps chip k with remain := n, phase := p, playAfter := x, playBlk := y, arrivals := ar } := by
  induction k generalizing s with
  | zero => rfl
  | succ k ih => rw [State.outputSteps_succ, State.outputStep_frame, ih, State.outputSteps_succ]

/-- k output steps leave the sequencing state, the host's side and the configuration as they are. -/
theorem State.outputSteps_keeps (s : State) (chip : ChipSample) (k : Nat) :
    s.outputSteps chip k =
      { s with
        acc := (s.outputSteps chip k).acc
        holdL := (s.outputSteps chip k).holdL
        holdR := (s.outputSteps chip k).holdR
        chip := (s.outputSteps chip k).chip
        chipHistory := (s.outputSteps chip k).chipHistory
        outHistory := (s.outputSteps chip k).outHistory } := by
  induction k generalizing s with
  | zero => rfl
  | succ k ih =>
    rw [State.outputSteps_succ, ih]
    simp only [State.outputStep_eq, State.issued]

/-- One iteration of the generation loop: it ends the loop at once, faults at rate 0, or runs a whole output step and
then takes the events present (R149; spec/60_exceptions.md R187). -/
theorem State.genIteration_cases (s : State) (chip : ChipSample) :
    (s.remain = 0#40 ∧ s.genIteration chip = .next s.finishGen) ∨
    (s.remain ≠ 0#40 ∧ s.outRate = 0#24 ∧ s.genIteration chip = .fault .outputStepAtRateZero) ∨
    (s.remain ≠ 0#40 ∧ s.outRate ≠ 0#24 ∧
      s.genIteration chip =
        .next (State.takingPoint { s.outputStep chip with remain := s.remain - 1#40 }).loopTest) := by
  by_cases h : s.remain = 0#40
  · exact .inl ⟨h, by simp [State.genIteration, h]⟩
  · by_cases hr : s.outRate = 0#24
    · exact .inr (.inl ⟨h, hr, by simp [State.genIteration, h, hr]⟩)
    · refine .inr (.inr ⟨h, hr, ?_⟩)
      have : (s.outputStep chip).remain = s.remain := by rw [State.outputStep_eq]; rfl
      simp [State.genIteration, h, hr, this]

/-- The end of the loop: a hand-off or IDLE (R149). -/
theorem State.finishGen_eq (s : State) :
    s.finishGen =
      if s.playAfter then
        { s with
          playAfter := false, playBlk := false
          phase := if s.playBlk then .waitSink else .idle
          outHistory := s.outHistory ++ [.play s.outRate s.playBlk] }
      else { s with phase := .idle } := by
  cases h : s.playAfter <;> simp [State.finishGen, h, State.handOff, State.emit]

end Sys2Proof.Machine
end

