-- ==== Sys2Proof/Laws/Step.lean ====
section
/-! SUPPORT. What one step can do, said once: the inversion of `step` by phase, of a host access, and of a command. -/

namespace Sys2Proof.Machine

/-- A host access is outside YRS, is over, or is a command word (spec/20_memory.md R51 to R54). -/
theorem State.serveAccess_cases (s : State) (a : HostAccess) :
    (0xFF < a.offset ∧ s.serveAccess a = .outside) ∨
    (a.offset ≤ 0xFF ∧ a.aligned = false ∧ s.serveAccess a = .done (s.respond .busError)) ∨
    (a.offset ≤ 0xFF ∧ a.aligned = true ∧ a.kind = .read ∧
      s.serveAccess a = .done (s.respond (.data (s.hostRead a.offset)))) ∨
    (∃ v, a.offset ≤ 0xFF ∧ a.aligned = true ∧ a.kind = .write v ∧ s.fault = true ∧ s.serveAccess a = .done s) ∨
    (∃ v, a.offset = cmdOffset ∧ a.aligned = true ∧ a.kind = .write v ∧ s.fault = false ∧
      s.serveAccess a = .command v s) ∨
    (∃ v, a.offset ≤ 0xFF ∧ a.aligned = true ∧ a.kind = .write v ∧ s.fault = false ∧ a.offset ≠ cmdOffset ∧
      s.serveAccess a = .done (s.writeRegister a.offset v)) := by
  by_cases h : 0xFF < a.offset
  · exact .inl ⟨h, by simp [State.serveAccess, h]⟩
  have h' : a.offset ≤ 0xFF := by omega
  by_cases hal : a.aligned = true
  · cases hk : a.kind with
    | read => exact .inr (.inr (.inl ⟨h', hal, rfl, by simp [State.serveAccess, h, hal, hk]⟩))
    | write v =>
      by_cases hf : s.fault = true
      · exact .inr (.inr (.inr (.inl ⟨v, h', hal, rfl, hf, by simp [State.serveAccess, h, hal, hk, hf]⟩)))
      · have hf' : s.fault = false := by simpa using hf
        by_cases hc : a.offset = cmdOffset
        · exact .inr (.inr (.inr (.inr (.inl ⟨v, hc, hal, rfl, hf', by
            simp [State.serveAccess, h, hal, hk, hf']; simp [hc]⟩))))
        · exact .inr (.inr (.inr (.inr (.inr ⟨v, h', hal, rfl, hf', hc, by
            simp [State.serveAccess, h, hal, hk, hf', hc]⟩))))
  · have hal' : a.aligned = false := by simpa using hal
    exact .inr (.inl ⟨h', hal', by simp [State.serveAccess, h, hal']⟩)

/-- A command word runs the command it decodes to, or raises ILLCMD (spec/40_register_programmer.md R100). -/
theorem execute_cases (w : Word) (s : State) :
    (∃ i, decode w = .ok i ∧ execute w s = exec i s) ∨
    (∃ e, decode w = .error e ∧ execute w s = .next (s.recorded .illcmd w 0#8)) := by
  cases h : decode w with
  | ok i => exact .inl ⟨i, rfl, by simp [execute, h]⟩
  | error e => exact .inr ⟨e, rfl, by simp only [execute, h]; rfl⟩

/-- What a command can do, said once: nothing; record a fault and nothing else (spec/60_exceptions.md R192); register
writes that pass; reset the chip; clear the resampler; enter the generation phase; hand off; emit `OutStop`
(spec/40_register_programmer.md R101 to R109, spec/41_resampler.md R131 to R133, spec/42_normalizer_sink.md R163,
R164). -/
inductive CommandEffect (s : State) : State → Prop where
  | none : CommandEffect s s
  | writes (ws : List (Byte × Byte)) (h : s.WritesPass ws) : CommandEffect s (s.afterWrites ws)
  | fault (c : FaultCause) (w : Word) (a : Byte) (hc : c ≠ .nochip) (ha : c ≠ .proto → a = 0#8) :
      CommandEffect s (s.recorded c w a)
  | chipReset : CommandEffect s { s.chipReset with keyed := 0#8, written := 0#224 }
  | clear : CommandEffect s { s with acc := 0#30, holdL := 0#32, holdR := 0#32 }
  | generate (n : BitVec 40) (x y : Bool) (hn : n ≠ 0#40) (hr : s.outRate ≠ 0#24) (hy : x = false → y = false) :
      CommandEffect s (s.startGen n x y)
  | handOff (b : Bool) : CommandEffect s (s.handOff b)
  | stop : CommandEffect s (s.emit .stop)

theorem commandEffect_regWrites (s : State) (w : Word) (ws : List (Byte × Byte)) :
    ∃ t, endCommand (s.regWrites w ws) = .next t ∧ CommandEffect s t := by
  rcases s.regWrites_cases w ws with ⟨hp, h⟩ | ⟨-, a, -, -, -, -, -, h⟩
  · exact ⟨_, by rw [h]; rfl, .writes ws hp⟩
  · exact ⟨_, by rw [h]; rfl, .fault .proto w a (by decide) (by simp)⟩

theorem commandEffect_singleWrite (s : State) (i : Instr) (a v : Byte) :
    ∃ t, singleWrite i a v s = .next t ∧ CommandEffect s t := by
  rw [singleWrite, State.regWrite_eq_regWrites]
  exact commandEffect_regWrites s _ _

/-- A fault other than PROTO. -/
theorem CommandEffect.faultAtOnce (s : State) (c : FaultCause) (w : Word) (hc : c ≠ .nochip) :
    CommandEffect s (s.recorded c w 0#8) :=
  .fault c w 0#8 hc (fun _ => rfl)

/-- The count RUN starts with is not zero and fits REMAIN (spec/41_resampler.md R134). -/
theorem runCount_ne_zero {s : State} (h : s.runCount ≠ 0) : BitVec.ofNat 40 s.runCount ≠ 0#40 := by
  intro h0
  have hd : s.duration.toInt.toNat < 2 ^ 31 := by
    have := s.duration.isLt
    rw [BitVec.toInt_eq_toNat_cond]
    split <;> omega
  have hr : s.outRate.toNat < 2 ^ 24 := s.outRate.isLt
  have hm : s.duration.toInt.toNat * s.outRate.toNat ≤ 2 ^ 31 * 2 ^ 24 := Nat.mul_le_mul hd.le hr.le
  have hc : s.runCount < 2 ^ 40 := by
    simp only [State.runCount, sampleCount]
    omega
  have := congrArg BitVec.toNat h0
  simp only [BitVec.toNat_ofNat, Nat.zero_mod, Nat.mod_eq_of_lt hc] at this
  exact h this

/-- Every command goes on, in one of these states. -/
theorem exec_cases (i : Instr) (s : State) : ∃ t, exec i s = .next t ∧ CommandEffect s t := by
  cases i with
  | nop => exact ⟨_, rfl, .none⟩
  | creset => exact ⟨_, rfl, .chipReset⟩
  | wreg a v => exact commandEffect_singleWrite s _ _ _
  | chset ch sel v =>
    simp only [exec, execChset]
    split
    · exact commandEffect_singleWrite s _ _ _
    · exact ⟨_, rfl, .faultAtOnce s .illcmd _ (by decide)⟩
  | opset ch op sel v =>
    simp only [exec, execOpset]
    split
    · exact commandEffect_singleWrite s _ _ _
    · exact ⟨_, rfl, .faultAtOnce s .illcmd _ (by decide)⟩
  | keyon ch m => exact commandEffect_singleWrite s _ _ _
  | keyoff ch => exact commandEffect_singleWrite s _ _ _
  | voice ch => exact commandEffect_regWrites s _ _
  | note ch m => exact commandEffect_regWrites s _ _
  | rsinit => exact ⟨_, rfl, .clear⟩
  | gen n =>
    simp only [exec, execGen]
    split
    · exact ⟨_, rfl, .none⟩
    · split
      · exact ⟨_, rfl, .faultAtOnce s .cfg _ (by decide)⟩
      · rename_i hn hr
        refine ⟨_, rfl, .generate _ _ _ ?_ hr (fun _ => rfl)⟩
        intro h
        apply hn
        have := congrArg BitVec.toNat h
        simp only [BitVec.toNat_setWidth, BitVec.toNat_ofNat, Nat.zero_mod] at this
        apply BitVec.eq_of_toNat_eq
        have := n.isLt
        simp only [BitVec.toNat_ofNat, Nat.zero_mod]
        omega
  | run b =>
    simp only [exec, execRun]
    split
    · exact ⟨_, rfl, .none⟩
    · split
      · exact ⟨_, rfl, .faultAtOnce s .cfg _ (by decide)⟩
      · split
        · exact ⟨_, rfl, .none⟩
        · rename_i hr hc
          exact ⟨_, rfl, .generate _ _ _ (runCount_ne_zero hc) hr (by simp)⟩
  | play b => exact ⟨_, rfl, .handOff b⟩
  | stop => exact ⟨_, rfl, .stop⟩

/-- A command word leads to one of the same states, ILLCMD included. -/
theorem execute_effect (w : Word) (s : State) : ∃ t, execute w s = .next t ∧ CommandEffect s t := by
  rcases execute_cases w s with ⟨i, -, h⟩ | ⟨e, -, h⟩
  · rw [h]; exact exec_cases i s
  · exact ⟨_, h, .faultAtOnce s .illcmd w (by decide)⟩

/-- One step, by phase (spec/60_exceptions.md R187): in IDLE it takes events, idles or serves one access; in GEN it runs
one iteration; in WAITSINK it passes a taking point. -/
theorem stepWith_cases (chip : ChipSample) (s : State) :
    (s.phase = .idle ∧ s.nextArrivals.any = true ∧ stepWith chip s = .next s.takingPoint) ∨
    (s.phase = .idle ∧ s.quiet ∧ s.bus = [] ∧ stepWith chip s = .next s.passPoint) ∨
    (∃ a rest, s.phase = .idle ∧ s.quiet ∧ s.bus = a :: rest ∧
      stepWith chip s = runAction (State.serveAccess { s.passPoint with bus := rest } a)) ∨
    (s.phase = .gen ∧ stepWith chip s = s.genIteration chip) ∨
    (s.phase = .waitSink ∧ stepWith chip s = .next s.takingPoint) := by
  cases hp : s.phase with
  | idle =>
    by_cases h : s.nextArrivals.any = true
    · exact .inl ⟨rfl, h, by simp [stepWith, hp, idleStep, h]⟩
    · have h' : s.quiet := by simpa [State.quiet] using h
      cases hb : s.bus with
      | nil => exact .inr (.inl ⟨rfl, h', rfl, by simp [stepWith, hp, idleStep, h, State.serveHost, hb, runAction]⟩)
      | cons a rest =>
        exact .inr (.inr (.inl ⟨a, rest, rfl, h', rfl, by simp [stepWith, hp, idleStep, h, State.serveHost, hb]⟩))
  | gen => exact .inr (.inr (.inr (.inl ⟨rfl, by simp [stepWith, hp]⟩)))
  | waitSink => exact .inr (.inr (.inr (.inr ⟨rfl, by simp [stepWith, hp]⟩)))

/-- One step of the machine, by phase. -/
theorem step_cases (s : State) :
    (s.phase = .idle ∧ s.nextArrivals.any = true ∧ step s = .next s.takingPoint) ∨
    (s.phase = .idle ∧ s.quiet ∧ s.bus = [] ∧ step s = .next s.passPoint) ∨
    (∃ a rest, s.phase = .idle ∧ s.quiet ∧ s.bus = a :: rest ∧
      step s = runAction (State.serveAccess { s.passPoint with bus := rest } a)) ∨
    (s.phase = .gen ∧ step s = s.genIteration Config.chipSample) ∨
    (s.phase = .waitSink ∧ step s = .next s.takingPoint) := stepWith_cases Config.chipSample s

/-! ### What one step can do, as cases -/

/-- What the events at a taking point can do (spec/60_exceptions.md R187 to R191). -/
inductive EventEffect (s : State) : State → Prop where
  | none : EventEffect s s
  | hwreset : EventEffect s (s.resetSequence false)
  | abort : EventEffect s (((s.emit .stop).emit .discard).resetSequence true)
  | sinkError : EventEffect s s.takeSinkError
  | sinkDone : EventEffect s s.takeSinkDone

theorem takeEvents_effect (s : State) (a : Arrivals) : EventEffect s (s.takeEvents a) := by
  rcases State.takeEvents_cases s a with ⟨-, h⟩ | ⟨-, -, h⟩ | ⟨-, -, -, h⟩ | ⟨-, -, -, -, h⟩ | ⟨-, h⟩ <;> rw [h]
  · exact .hwreset
  · exact .abort
  · exact .sinkError
  · exact .sinkDone
  · exact .none

/-- What an accepted write of a register other than CMD can do (spec/20_memory.md R53). -/
inductive WriteEffect (s : State) : State → Prop where
  | ignored : WriteEffect s s
  | ctrl (x y : Bool) : WriteEffect s { s with strict := x, rnd := y }
  | status (x y : Bool) : WriteEffect s { s with sinkErr := x, cancel := y }
  | clkFreq (v : Word) : WriteEffect s { s with clkFreq := v }
  | outRate (r : BitVec 24) : WriteEffect s { s with outRate := r, acc := 0#30 }
  | duration (v : Word) : WriteEffect s { s with duration := v }
  | vcfg (x : Staging) : WriteEffect s { s with vcfg := x }

theorem writeRegister_effect (s : State) (offset : Nat) (v : Word) : WriteEffect s (s.writeRegister offset v) := by
  unfold State.writeRegister
  split
  · exact .ctrl _ _
  · exact .status _ _
  · exact .clkFreq _
  · exact .outRate _
  · exact .duration _
  all_goals first | exact .ignored | exact .vcfg _

/-- What one step that goes on can do, said once. -/
inductive StepEffect (chip : ChipSample) (s : State) : State → Prop where
  /-- Events taken in IDLE or WAITSINK. -/
  | events (hp : s.phase ≠ .gen) {t : State} (h : EventEffect s.passPoint t) : StepEffect chip s t
  /-- An idle step, a read, an error response, or a write dropped because FAULT = 1. -/
  | served (hp : s.phase = .idle) (bus : List HostAccess) (rs : List BusResponse) :
      StepEffect chip s { s.passPoint with bus := bus, responses := s.responses ++ rs }
  /-- An accepted register write. -/
  | write (hp : s.phase = .idle) (hf : s.fault = false) (bus : List HostAccess) {t : State}
      (h : WriteEffect { s.passPoint with bus := bus } t) : StepEffect chip s t
  /-- An accepted command word. -/
  | command (hp : s.phase = .idle) (hf : s.fault = false) (bus : List HostAccess) {t : State}
      (h : CommandEffect { s.passPoint with bus := bus } t) : StepEffect chip s t
  /-- The end of a generation phase with nothing left to generate. -/
  | finish (hp : s.phase = .gen) (h : s.remain = 0#40) : StepEffect chip s s.finishGen
  /-- One iteration of the generation loop: the output step, the events, the test of the loop. -/
  | generate (hp : s.phase = .gen) (h : s.remain ≠ 0#40) (hr : s.outRate ≠ 0#24) {t : State}
      (ht : EventEffect
        (State.passPoint { s.outputStep chip with remain := s.remain - 1#40 }) t) : StepEffect chip s t.loopTest

theorem stepWith_effect {chip : ChipSample} {s t : State} (h : stepWith chip s = .next t) : StepEffect chip s t := by
  rcases stepWith_cases chip s with ⟨hp, -, he⟩ | ⟨hp, -, -, he⟩ | ⟨a, rest, hp, -, -, he⟩ | ⟨hp, he⟩ | ⟨hp, he⟩ <;>
    rw [he] at h
  · simp only [Host.Outcome.next.injEq] at h
    subst h
    exact .events (by simp [hp]) (takeEvents_effect _ _)
  · simp only [Host.Outcome.next.injEq] at h
    subst h
    simpa [State.passPoint] using StepEffect.served (chip := chip) hp s.bus []
  · rcases State.serveAccess_cases { s.passPoint with bus := rest } a with
      ⟨-, h'⟩ | ⟨-, -, h'⟩ | ⟨-, -, -, h'⟩ | ⟨-, -, -, -, -, h'⟩ | ⟨v, -, -, -, hf, h'⟩ | ⟨v, -, -, -, hf, -, h'⟩ <;>
      rw [h'] at h <;> simp only [runAction, Host.Outcome.next.injEq, reduceCtorEq] at h
    · subst h
      exact .served hp _ _
    · subst h
      exact .served hp _ _
    · subst h
      simpa [State.passPoint] using StepEffect.served (chip := chip) hp rest []
    · obtain ⟨u, h1, h2⟩ := execute_effect v { s.passPoint with bus := rest }
      rw [h1] at h
      simp only [Host.Outcome.next.injEq] at h
      subst h
      exact .command hp hf rest h2
    · subst h
      exact .write hp hf rest (writeRegister_effect _ _ _)
  · rcases State.genIteration_cases s chip with ⟨h1, h2⟩ | ⟨-, -, h2⟩ | ⟨h1, h3, h2⟩ <;> rw [h2] at h <;>
      simp only [Host.Outcome.next.injEq, reduceCtorEq] at h
    · subst h
      exact .finish hp h1
    · subst h
      exact .generate hp h1 h3 (takeEvents_effect _ _)
  · simp only [Host.Outcome.next.injEq] at h
    subst h
    exact .events (by simp [hp]) (takeEvents_effect _ _)

theorem step_effect {s t : State} (h : step s = .next t) : StepEffect Config.chipSample s t := stepWith_effect h

end Sys2Proof.Machine
end

