-- ==== Sys2Proof/Laws/Tracking.lean ====
section
/-! SUPPORT. The tracking bits KEYED and WRITTEN, bit by bit, and the register writes of VOICE (spec/10_state.md R35,
R36; spec/20_memory.md R58, R59, R62). -/

namespace Sys2Proof.Machine

theorem isConfigReg_eq (a : Byte) : isConfigReg a = decide (0x20 ≤ a.toNat) := by
  revert a; decide

theorem konMask_toNat (shift : KonShift) (v : Byte) : (konMask shift v).toNat = keyMask shift v := by
  simp [konMask, keyMask, Nat.shiftRight_eq_div_pow]

theorem konMask_ne_zero (shift : KonShift) (v : Byte) : (konMask shift v != 0#4) = decide (keyMask shift v ≠ 0) := by
  rw [← konMask_toNat, Bool.eq_iff_iff]
  simp [BitVec.toNat_eq]

theorem konChannel_toNat (v : Byte) : (konChannel v).toNat = v.toNat % 8 := by
  simp [konChannel]

theorem addrChannel_toNat (a : Byte) : (addrChannel a).toNat = a.toNat % 8 := by
  simp [addrChannel]

/-- The two conditions of R183, in bits and in arithmetic. -/
theorem breaksProtocol_iff (s : State) (a v : Byte) :
    breaksProtocol s.konShift s.keyed s.written a v = true ↔ s.Violates a v := by
  simp only [breaksProtocol, isConfigReg_eq, keyedBit, addrChannel_toNat, konMask_ne_zero, voiceApplied,
    konChannel_toNat, State.Violates, Config.keyReg, Config.nVoiceRegs]
  simp [and_assoc]

theorem protoViolation_iff (s : State) (a v : Byte) :
    s.protoViolation a v = true ↔ s.strict = true ∧ s.Violates a v := by
  simp [State.protoViolation, breaksProtocol_iff]

/-! ### Bits -/

theorem setWritten_get (b : BitVec 224) (i j : Nat) (hi : i < 224) :
    (setWritten b i).getLsbD j = (b.getLsbD j || j == i) := by
  simp only [setWritten, BitVec.getLsbD_or, BitVec.getLsbD_shiftLeft, BitVec.getLsbD_one]
  by_cases h : j = i
  · simp [h, hi]
  · have : (decide (j < 224) && !decide (j < i) && (decide (0 < 224) && decide (j - i = 0))) = false := by
      by_cases h2 : j < i <;> simp [h2]; omega
    rw [this]; simp [h]

theorem setKeyed_get (b : BitVec 8) (c : BitVec 3) (on : Bool) (j : Nat) (hj : j < 8) :
    (setKeyed b c on).getLsbD j = if j = c.toNat then on else b.getLsbD j := by
  have := c.isLt
  cases on <;> simp only [setKeyed]
  all_goals by_cases h : j = c.toNat <;> simp [h, hj]
  all_goals omega

/-- WRITTEN after one register write, bit by bit. -/
theorem trackWritten_get (b : BitVec 224) (a : Byte) (i : Nat) (hi : i < 224) :
    (trackWritten b a).getLsbD i = (a.toNat == 0x20 + i || b.getLsbD i) := by
  have := a.isLt
  simp only [trackWritten, isConfigReg_eq, writtenIndex]
  split
  · rename_i h
    simp at h
    rw [setWritten_get _ _ _ (by omega), Bool.or_comm]
    congr 1
    by_cases h2 : i = a.toNat - 32 <;> simp [h2] <;> omega
  · rename_i h
    simp at h
    have : ¬ (a.toNat = 32 + i) := by omega
    simp [this]

/-- KEYED after one register write, bit by bit. -/
theorem trackKeyed_get (shift : KonShift) (b : BitVec 8) (a v : Byte) (c : Nat) (hc : c < 8) :
    (trackKeyed shift b a v).getLsbD c =
      if a = 0x08#8 ∧ v.toNat % 8 = c then keyMask shift v != 0 else b.getLsbD c := by
  simp only [trackKeyed, Config.keyReg]
  by_cases h : a = 8#8
  · simp only [h, if_true, setKeyed_get _ _ _ _ hc, konMask_ne_zero, konChannel_toNat, true_and]
    by_cases h2 : c = v.toNat % 8
    · subst h2
      simp only [if_true]
      by_cases h : keyMask shift v = 0 <;> simp [h]
    · simp [h2, Ne.symm h2]
  · simp [h]

theorem trackKeyed_of_ne {a : Byte} (h : a ≠ 0x08#8) (shift : KonShift) (b : BitVec 8) (v : Byte) :
    trackKeyed shift b a v = b := by
  simp [trackKeyed, Config.keyReg, h]

/-- WRITTEN after a sequence of register writes, bit by bit. -/
theorem foldl_trackWritten_get (ws : List (Byte × Byte)) (b : BitVec 224) (i : Nat) (hi : i < 224) :
    (ws.foldl (fun b p => trackWritten b p.1) b).getLsbD i =
      (ws.any (fun p => p.1.toNat == 0x20 + i) || b.getLsbD i) := by
  induction ws generalizing b with
  | nil => simp
  | cons p rest ih =>
    rw [List.foldl_cons, ih, trackWritten_get _ _ _ hi]
    cases h1 : (p.1.toNat == 32 + i) <;> simp [h1]

theorem foldl_trackKeyed_of_ne (shift : KonShift) (ws : List (Byte × Byte)) (h : ∀ p ∈ ws, p.1 ≠ 0x08#8)
    (b : BitVec 8) : ws.foldl (fun b p => trackKeyed shift b p.1 p.2) b = b := by
  induction ws with
  | nil => rfl
  | cons p rest ih =>
    rw [List.foldl_cons, trackKeyed_of_ne (h p (by simp))]
    exact ih (fun q hq => h q (by simp [hq]))

/-! ### VOICE's writes -/

theorem regAddr_toNat {k : Nat} (hk : k < 28) (ch : BitVec 3) : (regAddr k ch).toNat = 0x20 + 8 * k + ch.toNat := by
  have := ch.isLt
  simp [regAddr]; omega

theorem mem_voiceWrites {ch : BitVec 3} {v : Staging} {p : Byte × Byte} :
    p ∈ voiceWrites ch v ↔ ∃ k, k < 28 ∧ p = (regAddr k ch, v.byte k) := by
  simp only [voiceWrites, Config.nVoiceRegs, List.mem_map, List.mem_range]
  exact ⟨fun ⟨k, hk, h⟩ => ⟨k, hk, h.symm⟩, fun ⟨k, hk, h⟩ => ⟨k, hk, h.symm⟩⟩

theorem voiceWrites_ne_key {ch : BitVec 3} {v : Staging} {p : Byte × Byte} (hp : p ∈ voiceWrites ch v) :
    p.1 ≠ 0x08#8 := by
  obtain ⟨k, hk, rfl⟩ := mem_voiceWrites.1 hp
  intro h
  have := regAddr_toNat hk ch
  simp only at h
  rw [h] at this
  simp at this
  omega

/-- VOICE writes every register of its channel and no other. -/
theorem voiceWrites_any (ch : BitVec 3) (v : Staging) (i : Nat) (hi : i < 224) :
    (voiceWrites ch v).any (fun p => p.1.toNat == 0x20 + i) = (i % 8 == ch.toNat) := by
  have hc := ch.isLt
  rw [Bool.eq_iff_iff]
  simp only [List.any_eq_true, beq_iff_eq]
  constructor
  · rintro ⟨p, hp, h⟩
    obtain ⟨k, hk, rfl⟩ := mem_voiceWrites.1 hp
    rw [regAddr_toNat hk] at h
    omega
  · intro h
    refine ⟨(regAddr (i / 8) ch, v.byte (i / 8)), mem_voiceWrites.2 ⟨i / 8, by omega, rfl⟩, ?_⟩
    rw [regAddr_toNat (by omega)]
    omega

/-! ### The key byte -/

theorem kon_eq (shift : KonShift) (ch : BitVec 3) (mask : BitVec 4) : kon shift ch mask = keyByte shift ch mask := by
  apply BitVec.eq_of_toNat_eq
  simp [kon, keyByte, Nat.shiftLeft_eq]

/-- From KON_SHIFT = 3 on, the key byte names the channel it was built for (log 22). -/
theorem keyByte_channel : ∀ (shift : KonShift) ch mask, 3 ≤ shift.val →
    (keyByte shift ch mask).toNat % 8 = ch.toNat := by
  decide

/-- From KON_SHIFT = 3 on, the key byte names the mask it was built for (log 22). -/
theorem keyMask_keyByte : ∀ (shift : KonShift) ch mask, 3 ≤ shift.val →
    keyMask shift (keyByte shift ch mask) = mask.toNat := by
  decide

/-! ### Sequences of writes -/

@[simp] theorem State.afterWrites_strict (s : State) (ws : List (Byte × Byte)) :
    (s.afterWrites ws).strict = s.strict := by
  rw [State.afterWrites_eq]; simp [State.issued]

theorem State.afterWrites_keyed (s : State) (ws : List (Byte × Byte)) :
    (s.afterWrites ws).keyed = ws.foldl (fun b p => trackKeyed s.konShift b p.1 p.2) s.keyed := by
  rw [State.afterWrites_eq]

theorem State.afterWrites_written (s : State) (ws : List (Byte × Byte)) :
    (s.afterWrites ws).written = ws.foldl (fun b p => trackWritten b p.1) s.written := by
  rw [State.afterWrites_eq]

theorem State.afterWrites_append (s : State) (xs ys : List (Byte × Byte)) :
    s.afterWrites (xs ++ ys) = (s.afterWrites xs).afterWrites ys := by
  induction xs generalizing s with
  | nil => rfl
  | cons p rest ih => obtain ⟨a, v⟩ := p; simp [State.afterWrites, ih]

end Sys2Proof.Machine
end

