-- ==== Sys2Proof/Tests/Slice0.lean ====
section
/-! SUPPORT. The model's own tests, each on one step or one operation. Expected values are those of
spec/95_test_vectors.md (ids in the comments) or worked out by hand from the rule named. The last part shows, for every
statement with hypotheses, values that meet them. -/

namespace Sys2Proof.Tests

open Sys2Proof Sys2Proof.Machine

/-! ### Helpers -/

/-- The next state of an outcome; the reset state where there is none. -/
def nextOf (o : Host.Outcome State Fault Refusal) : State :=
  match o with
  | .next s => s
  | .fault _ => State.reset
  | .refused _ => State.reset

/-- The outcome is a next state. -/
def goesOn (o : Host.Outcome State Fault Refusal) : Bool :=
  match o with
  | .next _ => true
  | .fault _ => false
  | .refused _ => false

/-- The reset state with STRICT = 1. -/
def strictReset : State := { State.reset with strict := true }

/-- The reset state with STRICT = 1, channel 0 fully applied and keyed (vector X3 before its CHSET). -/
def sounding : State := { strictReset with keyed := 1#8, written := BitVec.ofNat 224 ((2 ^ 224 - 1) / 255) }

/-- The reset state with one access waiting. -/
def waiting (a : HostAccess) : State := { State.reset with bus := [a] }

/-- An aligned word write. -/
def wr (offset : Nat) (v : Word) : HostAccess := ⟨.write v, .word, offset⟩

/-- An aligned word read. -/
def rd (offset : Nat) : HostAccess := ⟨.read, .word, offset⟩

/-- One event at the next taking point. -/
def withEvent (a : Arrivals) (s : State) : State := { s with arrivals := [a] }

/-- An abort. -/
def abortNow : Arrivals := { Arrivals.quiet with abort := true }
/-- A sink_error. -/
def sinkErrorNow : Arrivals := { Arrivals.quiet with sinkError := true }
/-- A sink_done. -/
def sinkDoneNow : Arrivals := { Arrivals.quiet with sinkDone := true }
/-- A hwreset. -/
def hwresetNow : Arrivals := { Arrivals.quiet with hwreset := true }

/-- TOY-A of spec/95_test_vectors.md section 0. -/
def toyA : ChipSample := fun c =>
  let t : Int := (c.count .clock : Nat) + 1
  (BitVec.ofInt 32 (7 * t - 20), BitVec.ofInt 32 (5 - 7 * t))

/-- TOY-X of the same section. -/
def toyX : ChipSample := fun _ => (0x7FFFFFFF#32, 0x80000000#32)

/-- The state of vector T1 before its step 4: ACC = 2,784,000, three cycles clocked. -/
def beforeStep4 : State :=
  { State.reset with acc := 2784000#30, holdL := 1#32, holdR := BitVec.ofInt 32 (-16), chip := [.clock, .clock, .clock] }

/-- Inside a generation phase at nominal rates with k samples to come. -/
def generating (k : BitVec 40) : State := { State.reset with phase := .gen, remain := k }

/-! ### WellFormed: the terms it refuses (spec/30_encoding.md R84, R85) -/

theorem test_chset_sel_4_is_ill_formed : (Instr.chset 0#3 4#3 0#8).wellFormed = false := by decide
theorem test_chset_sel_3_is_well_formed : (Instr.chset 0#3 3#3 0#8).wellFormed = true := by decide
theorem test_opset_sel_6_is_ill_formed : (Instr.opset 0#3 0#2 6#3 0#8).wellFormed = false := by decide
theorem test_opset_sel_5_is_well_formed : (Instr.opset 0#3 0#2 5#3 0#8).wellFormed = true := by decide

/-! ### Decode: the words of section 2.1, every constructor -/

/-- ENC1, ENC3. -/
theorem test_decode_nop_creset : decode 0x00000000#32 = .ok .nop ∧ decode 0x01000000#32 = .ok .creset := by decide
/-- ENC5, ENC6. -/
theorem test_decode_wreg : decode 0x0200284A#32 = .ok (.wreg 0x28#8 0x4A#8) ∧
    decode 0x0200FFFF#32 = .ok (.wreg 0xFF#8 0xFF#8) := by decide
/-- ENC8, ENC9. -/
theorem test_decode_chset : decode 0x0323004A#32 = .ok (.chset 3#3 1#3 0x4A#8) ∧
    decode 0x036300FF#32 = .ok (.chset 3#3 3#3 0xFF#8) := by decide
/-- ENC13, ENC14. -/
theorem test_decode_opset : decode 0x043A007F#32 = .ok (.opset 2#3 3#2 1#3 0x7F#8) ∧
    decode 0x04BF00FF#32 = .ok (.opset 7#3 3#2 5#3 0xFF#8) := by decide
/-- ENC17, ENC18, ENC22. -/
theorem test_decode_key : decode 0x05000F00#32 = .ok (.keyon 0#3 0xF#4) ∧
    decode 0x05070F00#32 = .ok (.keyon 7#3 0xF#4) ∧ decode 0x06050000#32 = .ok (.keyoff 5#3) := by decide
/-- ENC24, ENC26. -/
theorem test_decode_voice_note : decode 0x07010000#32 = .ok (.voice 1#3) ∧
    decode 0x08000F00#32 = .ok (.note 0#3 0xF#4) := by decide
/-- ENC29, ENC31 to ENC33, ENC35, ENC37. -/
theorem test_decode_stream : decode 0x10000000#32 = .ok .rsinit ∧ decode 0x11000000#32 = .ok (.gen 0#24) ∧
    decode 0x11FFFFFF#32 = .ok (.gen 16777215#24) ∧ decode 0x12000000#32 = .ok (.run false) ∧
    decode 0x12000001#32 = .ok (.run true) ∧ decode 0x13000000#32 = .ok (.play false) ∧
    decode 0x13000001#32 = .ok (.play true) ∧ decode 0x14000000#32 = .ok .stop := by decide

/-- Every ILLCMD row of section 2.1. -/
def illegalWords : List Word :=
  [0x00000001#32, 0x01000100#32, 0x02010000#32, 0x03800000#32, 0x03080000#32, 0x03000100#32, 0x04C00000#32,
    0x04E00000#32, 0x05080000#32, 0x05001000#32, 0x05000001#32, 0x06000100#32, 0x07000001#32, 0x08071F00#32,
    0x09000000#32, 0x0F000000#32, 0x15000000#32, 0xFFFFFFFF#32, 0x10000001#32, 0x12000002#32, 0x13000003#32,
    0x14000001#32]

theorem test_illegal_words_are_refused :
    (illegalWords.all fun w => match decode w with
      | .ok _ => false
      | .error _ => true) = true := by decide

/-- R87: the formulas for the listing lines of ENC9, ENC14, ENC18. -/
theorem test_encode_words : encode (.chset 3#3 3#3 0xFF#8) = 0x036300FF#32 ∧
    encode (.opset 7#3 3#2 5#3 0xFF#8) = 0x04BF00FF#32 ∧ encode (.keyon 7#3 0xF#4) = 0x05070F00#32 := by decide

/-- R87, R89: listing lines. -/
theorem test_listing : (Instr.opset 2#3 3#2 1#3 0x7F#8).listing = "OPSET 2, 3, TL, 127" ∧
    (Instr.gen 12#24).listing = "GEN 12" ∧ Instr.stop.listing = "STOP" := by decide

/-- The host's view of the decoder: 0x13 with its b bit. -/
theorem test_decode_table_word : decodeTableWord 32 0x13000001 = some (.play true) ∧
    decodeTableWord 32 0x13000002 = none := by decide

/-! ### Addresses and bytes (table ADDR, R59) -/

theorem test_addresses : chAddr 7#3 3#3 = 0x3F#8 ∧ opAddr 2#3 3#2 1#3 = 0x7A#8 ∧ opAddr 4#3 2#2 3#3 = 0xB4#8 ∧
    opAddr 7#3 3#2 5#3 = 0xFF#8 := by decide

theorem test_key_bytes : kon 4 0#3 0xF#4 = 0xF0#8 ∧ kon 4 5#3 3#4 = 0x35#8 ∧ konMask 4 0x78#8 = 7#4 ∧
    konMask 4 0x08#8 = 0#4 := by decide

/-- G1 of 93_implementation_defined.md: with KON_SHIFT = 3 mask 0xF for channel 0 gives 0x78. -/
theorem test_key_bytes_at_shift_3 : kon 3 0#3 0xF#4 = 0x78#8 ∧
    (nextOf (exec (.keyon 0#3 0xF#4) { State.reset with konShift := 3 })).chip =
      [.write 0#1 0x08#8, .write 1#1 0x78#8] := by decide

/-! ### RegisterProgrammer commands (section 2.3) -/

/-- RP1. -/
theorem test_nop : nextOf (exec .nop State.reset) = State.reset := by decide

/-- RP2 after a key-on. -/
theorem test_creset : (nextOf (exec .creset sounding)).chipHistory = [.reset, .reset] ∧
    (nextOf (exec .creset sounding)).keyed = 0#8 ∧ (nextOf (exec .creset sounding)).written = 0#224 := by decide

/-- RP3. -/
theorem test_wreg_config : (nextOf (exec (.wreg 0x28#8 0x4A#8) State.reset)).chipHistory =
      [.reset, .op (.write 0#1 0x28#8), .op (.write 1#1 0x4A#8)] ∧
    (nextOf (exec (.wreg 0x28#8 0x4A#8) State.reset)).written = 1#224 <<< 8 := by decide

/-- RP9. -/
theorem test_wreg_key : (nextOf (exec (.wreg 0x08#8 0x78#8) State.reset)).keyed = 1#8 ∧
    (nextOf (exec (.wreg 0x08#8 0x78#8) State.reset)).written = 0#224 := by decide

/-- RP10: a key-off with KON_SHIFT = 4, a key-on with KON_SHIFT = 3. -/
theorem test_wreg_key_bit_3 : (nextOf (exec (.wreg 0x08#8 0x08#8) { State.reset with keyed := 1#8 })).keyed = 0#8 ∧
    (nextOf (exec (.wreg 0x08#8 0x08#8) { State.reset with konShift := 3 })).keyed = 1#8 := by decide

/-- RP11. -/
theorem test_chset : (nextOf (exec (.chset 3#3 1#3 0x4A#8) State.reset)).chipHistory =
      [.reset, .op (.write 0#1 0x2B#8), .op (.write 1#1 0x4A#8)] ∧
    (nextOf (exec (.chset 3#3 1#3 0x4A#8) State.reset)).written = 1#224 <<< 11 := by decide

/-- X3. -/
theorem test_chset_strict : (nextOf (exec (.chset 0#3 1#3 0x50#8) sounding)).statusWord = 0x28000129#32 ∧
    (nextOf (exec (.chset 0#3 1#3 0x50#8) sounding)).finfo = 0x03200050#32 ∧
    (nextOf (exec (.chset 0#3 1#3 0x50#8) sounding)).chipHistory = [.reset] := by decide

/-- RP5. -/
theorem test_opset : (nextOf (exec (.opset 2#3 3#2 1#3 0x7F#8) State.reset)).chipHistory =
      [.reset, .op (.write 0#1 0x7A#8), .op (.write 1#1 0x7F#8)] ∧
    (nextOf (exec (.opset 2#3 3#2 1#3 0x7F#8) State.reset)).written = 1#224 <<< 0x5A := by decide

/-- X5: another channel's register is writable while channel 0 sounds. -/
theorem test_opset_other_channel : (nextOf (exec (.opset 1#3 0#2 1#3 0#8) sounding)).fault = false := by decide

/-- RP6. -/
theorem test_keyon : (nextOf (exec (.keyon 0#3 0xF#4) State.reset)).chipHistory =
      [.reset, .op (.write 0#1 0x08#8), .op (.write 1#1 0xF0#8)] ∧
    (nextOf (exec (.keyon 0#3 0xF#4) State.reset)).statusWord = 0x00000108#32 := by decide

/-- X1. -/
theorem test_keyon_strict : (nextOf (exec (.keyon 0#3 0xF#4) strictReset)).statusWord = 0x08000029#32 ∧
    (nextOf (exec (.keyon 0#3 0xF#4) strictReset)).finfo = 0x05000F00#32 := by decide

/-- RP7, second command. -/
theorem test_keyoff : (nextOf (exec (.keyoff 5#3) { State.reset with keyed := 0x20#8 })).keyed = 0#8 ∧
    (nextOf (exec (.keyoff 5#3) State.reset)).chipHistory =
      [.reset, .op (.write 0#1 0x08#8), .op (.write 1#1 0x05#8)] := by decide

/-- RP12: 56 transactions, the first pair and the last. -/
theorem test_voice : (nextOf (exec (.voice 1#3) State.reset)).chip.length = 56 ∧
    (nextOf (exec (.voice 1#3) State.reset)).chip.take 2 = [.write 0#1 0x21#8, .write 1#1 0#8] ∧
    (nextOf (exec (.voice 1#3) State.reset)).chip.drop 54 = [.write 0#1 0xF9#8, .write 1#1 0#8] := by decide

/-- X9. -/
theorem test_voice_strict : (nextOf (exec (.voice 0#3) sounding)).freg = 0x20#8 ∧
    (nextOf (exec (.voice 0#3) sounding)).finfo = 0x07000000#32 ∧
    (nextOf (exec (.voice 0#3) sounding)).chipHistory = [.reset] := by decide

/-- X8: 60 transactions, key-off first, key-on last, on a sounding channel in strict mode. -/
theorem test_note : (nextOf (exec (.note 0#3 0xF#4) sounding)).fault = false ∧
    (nextOf (exec (.note 0#3 0xF#4) sounding)).chip.length = 60 ∧
    (nextOf (exec (.note 0#3 0xF#4) sounding)).chip.take 2 = [.write 0#1 0x08#8, .write 1#1 0x00#8] ∧
    (nextOf (exec (.note 0#3 0xF#4) sounding)).chip.drop 58 = [.write 0#1 0x08#8, .write 1#1 0xF0#8] := by decide

/-! ### Resampler and sink commands -/

/-- T10. -/
theorem test_rsinit : (nextOf (exec .rsinit beforeStep4)).acc = 0#30 ∧
    (nextOf (exec .rsinit beforeStep4)).holdR = 0#32 ∧
    (nextOf (exec .rsinit beforeStep4)).chip = [.clock, .clock, .clock] := by decide

/-- T13. -/
theorem test_gen : (nextOf (exec (.gen 1#24) { State.reset with outRate := 0#24 })).statusWord = 0x00000049#32 ∧
    (nextOf (exec (.gen 1#24) { State.reset with outRate := 0#24 })).finfo = 0x11000001#32 ∧
    (nextOf (exec (.gen 0#24) { State.reset with outRate := 0#24 })).fault = false := by decide

/-- SC5 (P5a): REMAIN = 13, PLAYAFTER and PLAYBLK set. -/
theorem test_run : (nextOf (exec (.run true) { State.reset with outRate := 100#24, duration := 0x2000#32 })).remain =
      13#40 ∧
    (nextOf (exec (.run true) { State.reset with outRate := 100#24, duration := 0x2000#32 })).playBlk = true ∧
    (nextOf (exec (.run true) { State.reset with outRate := 100#24, duration := 0x2000#32 })).phase = .gen := by decide

/-- SC8, SC10: no-ops. -/
theorem test_run_nothing :
    (nextOf (exec (.run true) { State.reset with outRate := 1#24, duration := 0x7FFF#32 })).phase = .idle ∧
    (nextOf (exec (.run true) { State.reset with outRate := 0#24, duration := 0x80000000#32 })).fault = false := by
  decide

/-- M3, M4. -/
theorem test_play : (nextOf (exec (.play true) State.reset)).outHistory = [.play 48000#24 true] ∧
    (nextOf (exec (.play true) State.reset)).phase = .waitSink ∧
    (nextOf (exec (.play false) State.reset)).phase = .idle := by decide

/-- M5. -/
theorem test_stop : (nextOf (exec .stop State.reset)).outHistory = [.stop] := by decide

/-! ### Arithmetic (sections 2.4 to 2.6, the table of R143) -/

theorem test_divisions : tdiv 23 2 = 11 ∧ tdiv (-53) 2 = -26 ∧ rdiv 23 2 = 12 ∧ rdiv (-53) 2 = -27 ∧ tdiv (-1) 2 = 0 ∧
    rdiv (-1) 2 = -1 ∧ rdiv 1 3 = 0 ∧ tdiv (-7) 1 = -7 ∧ rdiv (-7) 1 = -7 := by decide

/-- SC1, SC3, SC4, SC7, SC8, SC11, SC12. -/
theorem test_sample_counts : sampleCount 0x20000 48000 = 96000 ∧ sampleCount 0x18000 44100 = 66150 ∧
    sampleCount 0x100 48000 = 188 ∧ sampleCount 0xFFFF 48000 = 47999 ∧ sampleCount 0x7FFF 1 = 0 ∧
    sampleCount 0x8000 1 = 1 ∧ sampleCount 0x7FFFFFFF 0xFFFFFF = 549755780864 := by decide

/-- M1. -/
theorem test_norm : norm 32768#32 = 0x08000#17 ∧ norm 32769#32 = 0x08000#17 ∧
    norm (BitVec.ofInt 32 (-32769)) = 0x18000#17 ∧ norm (BitVec.ofInt 32 (-30000)) = 0x18AD0#17 ∧
    norm 0x80000000#32 = 0x18000#17 ∧ norm 0x7FFFFFFF#32 = 0x08000#17 ∧ norm 32767#32 = 32767#17 := by decide

/-! ### The output step (section 2.5) -/

/-- T1, step 4, truncating. -/
theorem test_step_average : (beforeStep4.outputStep toyA).acc = 640000#30 ∧
    (beforeStep4.outputStep toyA).holdL.toInt = 11 ∧ (beforeStep4.outputStep toyA).holdR.toInt = -26 ∧
    (beforeStep4.outputStep toyA).chip.length = 5 := by decide

/-- T1, step 4, rounding. -/
theorem test_step_rounding : (State.outputStep { beforeStep4 with rnd := true } toyA).holdL.toInt = 12 ∧
    (State.outputStep { beforeStep4 with rnd := true } toyA).holdR.toInt = -27 := by decide

/-- T4, step 1. -/
theorem test_step_holds :
    (State.outputStep { State.reset with clkFreq := 128000#32, outRate := 3000#24 } toyA).acc = 128000#30 ∧
    (State.outputStep { State.reset with clkFreq := 128000#32, outRate := 3000#24 } toyA).outHistory =
      [.sample 0#17 0#17] := by decide

/-- T7. -/
theorem test_step_extremes :
    (State.outputStep { State.reset with clkFreq := 6144000#32 } toyX).holdL = 0x7FFFFFFF#32 ∧
    (State.outputStep { State.reset with clkFreq := 6144000#32 } toyX).holdR = 0x80000000#32 ∧
    (State.outputStep { State.reset with clkFreq := 6144000#32 } toyX).outHistory =
      [.sample 0x08000#17 0x18000#17] := by decide

/-! ### Host accesses and events, one step each (sections 2.7, 2.8) -/

/-- H1: STATUS, CLKFREQ, OUTRATE and the write-only CMD as read at reset. -/
theorem test_reads_at_reset : State.reset.hostRead 0x04 = 0x00000008#32 ∧ State.reset.hostRead 0x10 = 0x003D0900#32 ∧
    State.reset.hostRead 0x14 = 0x0000BB80#32 ∧ State.reset.hostRead 0x0C = 0#32 := by decide

/-- H2, H3. -/
theorem test_writes : (nextOf (step (waiting (wr 0x00 0xFFFFFFFF#32)))).ctrlWord = 3#32 ∧
    (nextOf (step (waiting (wr 0x14 0x01000000#32)))).outRate = 0#24 := by decide

/-- H7. -/
theorem test_staging : (nextOf (step (waiting (wr 0x40 0x00054AC7#32)))).vcfg.byte 0 = 0xC7#8 ∧
    (nextOf (step (waiting (wr 0x40 0x00054AC7#32)))).vcfg.byte 1 = 0x4A#8 := by decide

/-- H9. -/
theorem test_bus_errors :
    nextOf (step (waiting ⟨.write 1#32, .byte, 0⟩)) = { State.reset with responses := [.busError] } ∧
    nextOf (step (waiting ⟨.read, .word, 2⟩)) = { State.reset with responses := [.busError] } := by decide

/-- R51: an access above 0xFF is refused, by name. -/
theorem test_outside : goesOn (step (waiting (rd 0x100))) = false ∧ goesOn (step (waiting (rd 0xFC))) = true := by decide

/-- F3. -/
theorem test_illcmd : (nextOf (step (waiting (wr 0x0C 0x09000000#32)))).statusWord = 0x00000019#32 ∧
    (nextOf (step (waiting (wr 0x0C 0x09000000#32)))).finfo = 0x09000000#32 := by decide

/-- H10: a write to STATUS is dropped while FAULT = 1. -/
theorem test_faulted_write : (nextOf (step { waiting (wr 0x04 6#32) with fault := true, cancel := true })).cancel = true :=
  by decide

/-- F1, F2. -/
theorem test_chip_absent : (State.powerOn false 4).statusWord = 0x00000031#32 ∧
    (State.powerOn false 4).takeAbort.statusWord = 0x00000035#32 ∧
    (State.powerOn false 4).takeAbort.outHistory = [.stop, .discard] ∧ (State.powerOn false 4).takeAbort.chipHistory = [] := by
  decide

/-- F10, F11. -/
theorem test_resets : (nextOf (step (withEvent abortNow State.reset))).statusWord = 0x0000000C#32 ∧
    (nextOf (step (withEvent abortNow State.reset))).outHistory = [.stop, .discard] ∧
    (nextOf (step (withEvent hwresetNow State.reset))).statusWord = 0x00000008#32 ∧
    (nextOf (step (withEvent hwresetNow State.reset))).chipHistory = [.reset, .reset] := by decide

/-- M4, F7, F8. -/
theorem test_sink_events :
    (nextOf (step (withEvent sinkErrorNow { State.reset with phase := .waitSink }))).statusWord = 0x0000000A#32 ∧
    (nextOf (step (withEvent sinkDoneNow { State.reset with phase := .waitSink }))).phase = .idle ∧
    nextOf (step (withEvent sinkDoneNow State.reset)) = State.reset := by decide

/-- F6: the step before the sink_error is whole, and the attempt's samples are dropped. -/
theorem test_sink_error_in_generation :
    (nextOf (stepWith toyA (withEvent sinkErrorNow (generating 5#40)))).outHistory =
      [.sample (BitVec.ofInt 17 (-13)) (BitVec.ofInt 17 (-2)), .discard] ∧
    (nextOf (stepWith toyA (withEvent sinkErrorNow (generating 5#40)))).acc = 928000#30 ∧
    (nextOf (stepWith toyA (withEvent sinkErrorNow (generating 5#40)))).phase = .idle := by decide

/-- R166: the pending buffer after a hand-off and a sample. -/
theorem test_pending_buffer : pendingBuffer [.sample 1#17 2#17, .play 48000#24 false, .sample 3#17 4#17, .stop] =
    [(3#17, 4#17)] := by decide

/-- The command word is fetched and run where withFetchWord puts it. -/
theorem test_with_fetch_word : nextOf (step (State.reset.withFetchWord 32 0x14000000)) =
    { State.reset with outHistory := [.stop] } := by decide

/-! ### Witnesses: values that meet the hypotheses of each statement that has any, clause by clause -/

theorem witness_DecodeUndoesEncode : (Instr.chset 7#3 3#3 0xFF#8).wellFormed = true ∧
    (Instr.opset 7#3 3#2 5#3 0xFF#8).wellFormed = true ∧ (Instr.gen 0xFFFFFF#24).wellFormed = true := by decide

theorem witness_EncodeUndoesDecode : decode 0x04BF00FF#32 = .ok (.opset 7#3 3#2 5#3 0xFF#8) := by decide

/-- Both clauses: a word that decodes, and one that decodes to nothing. -/
theorem witness_DecoderFollowsTheOpcodeMap : decode 0x11FFFFFF#32 = .ok (.gen 0xFFFFFF#24) ∧
    ∀ i, decode 0x04C00000#32 ≠ .ok i := by
  refine ⟨by decide, fun i h => ?_⟩
  have h' : decode 0x04C00000#32 = .error .reservedSelector := by decide
  rw [h'] at h
  cases h

theorem witness_IllegalWordsRaiseIllcmd : (∀ r ∈ opcodeRows, r.selects 0x03800000#32 = false) ∧
    (∀ r ∈ opcodeRows, r.selects 0x15000000#32 = false) := by decide

/-- Every clause: a command's word, and a word that is no command. -/
theorem witness_StepRunsTheDecodedCommand : (waiting (cmdWrite 0x14000000#32)).accepting ∧
    (waiting (cmdWrite 0x14000000#32)).quiet ∧ (waiting (cmdWrite 0x14000000#32)).bus = [cmdWrite 0x14000000#32] ∧
    decode 0x14000000#32 = .ok .stop ∧ (waiting (cmdWrite 0x09000000#32)).accepting ∧
    (waiting (cmdWrite 0x09000000#32)).quiet ∧ (waiting (cmdWrite 0x09000000#32)).bus = [cmdWrite 0x09000000#32] ∧
    ∀ r ∈ opcodeRows, r.selects 0x09000000#32 = false :=
  ⟨⟨rfl, rfl⟩, rfl, rfl, by decide, ⟨rfl, rfl⟩, rfl, rfl, by decide⟩

/-! The words refused by their opcode's row: each has the opcode and a must-be-zero bit set, or a selector too large. -/

theorem witness_NopDoesNothing :
    (0x00000001#32).extractLsb' 24 8 = 0x00#8 ∧ (0x00000001#32).extractLsb' 0 24 ≠ 0#24 := by decide

theorem witness_CresetResetsChipAndTracking :
    (0x01000100#32).extractLsb' 24 8 = 0x01#8 ∧ (0x01000100#32).extractLsb' 0 24 ≠ 0#24 := by decide

theorem witness_WregWritesOneRegister_illegal :
    (0x02010000#32).extractLsb' 24 8 = 0x02#8 ∧ (0x02010000#32).extractLsb' 16 8 ≠ 0#8 := by decide

theorem witness_ChsetWritesItsRegister_illegal :
    (0x03800000#32).extractLsb' 24 8 = 0x03#8 ∧ 4 ≤ ((0x03800000#32).extractLsb' 21 3).toNat ∧
    (0x03080000#32).extractLsb' 24 8 = 0x03#8 ∧ (0x03080000#32).extractLsb' 19 2 ≠ 0#2 ∧
    (0x03000100#32).extractLsb' 24 8 = 0x03#8 ∧ (0x03000100#32).extractLsb' 8 8 ≠ 0#8 := by decide

theorem witness_OpsetWritesItsRegister_illegal :
    (0x04C00000#32).extractLsb' 24 8 = 0x04#8 ∧ 6 ≤ ((0x04C00000#32).extractLsb' 21 3).toNat ∧
    (0x04000100#32).extractLsb' 24 8 = 0x04#8 ∧ (0x04000100#32).extractLsb' 8 8 ≠ 0#8 := by decide

theorem witness_KeyonWritesTheKeyByte_illegal :
    (0x05080000#32).extractLsb' 24 8 = 0x05#8 ∧ (0x05080000#32).extractLsb' 19 5 ≠ 0#5 ∧
    (0x05001000#32).extractLsb' 12 4 ≠ 0#4 ∧ (0x05000001#32).extractLsb' 0 8 ≠ 0#8 := by decide

theorem witness_KeyoffWritesTheKeyByte_illegal :
    (0x06000100#32).extractLsb' 24 8 = 0x06#8 ∧ (0x06000100#32).extractLsb' 0 16 ≠ 0#16 ∧
    (0x06080000#32).extractLsb' 24 8 = 0x06#8 ∧ (0x06080000#32).extractLsb' 19 5 ≠ 0#5 := by decide

theorem witness_VoiceWritesTheStagedVoice_illegal :
    (0x07000001#32).extractLsb' 24 8 = 0x07#8 ∧ (0x07000001#32).extractLsb' 0 16 ≠ 0#16 := by decide

theorem witness_NoteKeysOffConfiguresAndKeysOn_illegal :
    (0x08071F00#32).extractLsb' 24 8 = 0x08#8 ∧ (0x08071F00#32).extractLsb' 12 4 ≠ 0#4 := by decide

theorem witness_RsinitClearsTheResampler :
    (0x10000001#32).extractLsb' 24 8 = 0x10#8 ∧ (0x10000001#32).extractLsb' 0 24 ≠ 0#24 := by decide

theorem witness_RunAcceptsItsCount_illegal :
    (0x12000002#32).extractLsb' 24 8 = 0x12#8 ∧ (0x12000002#32).extractLsb' 1 23 ≠ 0#23 := by decide

theorem witness_PlayHandsOff :
    (0x13000003#32).extractLsb' 24 8 = 0x13#8 ∧ (0x13000003#32).extractLsb' 1 23 ≠ 0#23 := by decide

theorem witness_StopCancelsPlayback :
    (0x14000001#32).extractLsb' 24 8 = 0x14#8 ∧ (0x14000001#32).extractLsb' 0 24 ≠ 0#24 := by decide

/-- Both clauses: an illegal word, which faults, and a generation phase that meets the invariant (its
`RegInv` is in `witness_StepsKeepTheRegisterInvariant`). -/
theorem witness_FaultsArePrecise : State.reset.fault = false ∧
    (∃ t, execute 0x09000000#32 State.reset = .next t ∧ t.fault = true) ∧ (generating 2#40).phase = .gen ∧
    ∃ t, step (generating 2#40) = .next t := ⟨rfl, ⟨_, rfl, rfl⟩, rfl, _, rfl⟩

/-- PROTO by (i) and by (ii); and, in strict mode, an address below 0x20, the first and the last configuration register,
and the key register with the channel applied. -/
theorem witness_RegWriteChecksIssuesAndTracks :
    (sounding.strict = true ∧ sounding.Violates 0xF8#8 0#8) ∧
    (strictReset.strict = true ∧ strictReset.Violates 0x08#8 0x10#8) ∧ ¬ strictReset.Violates 0x1F#8 0xFF#8 ∧
    ¬ strictReset.Violates 0x20#8 0xFF#8 ∧ ¬ strictReset.Violates 0xFF#8 0xFF#8 ∧ ¬ sounding.Violates 0x08#8 0xF0#8 := by
  unfold State.Violates
  decide

/-- WREG's two clauses, the same way. -/
theorem witness_WregWritesOneRegister : (strictReset.strict = true ∧ strictReset.Violates 0x08#8 0x10#8) ∧
    ¬ strictReset.Violates 0x20#8 0xFF#8 := by
  unfold State.Violates
  decide

/-- The selectors at both ends, in strict mode with the channel silent and with it keyed. -/
theorem witness_ChsetWritesItsRegister : (0#3).toNat ≤ 3 ∧ (3#3).toNat ≤ 3 ∧
    strictReset.strict = true ∧ strictReset.keyed.getLsbD (7#3).toNat = false ∧
    sounding.strict = true ∧ sounding.keyed.getLsbD (0#3).toNat = true := by decide

theorem witness_OpsetWritesItsRegister : (0#3).toNat ≤ 5 ∧ (5#3).toNat ≤ 5 ∧
    strictReset.strict = true ∧ strictReset.keyed.getLsbD (7#3).toNat = false ∧
    sounding.strict = true ∧ sounding.keyed.getLsbD (0#3).toNat = true := by decide

theorem witness_IllFormedTermsRaiseIllcmd : 4 ≤ (4#3).toNat ∧ 4 ≤ (7#3).toNat ∧ 6 ≤ (6#3).toNat ∧ 6 ≤ (7#3).toNat := by
  decide

/-- KON_SHIFT = 3 and 4: every register of the channel written, and the last one not. -/
theorem witness_KeyonWritesTheKeyByte : sounding.strict = true ∧ (0xF#4 ≠ 0#4) ∧ 3 ≤ sounding.konShift.val ∧
    3 ≤ (3 : KonShift).val ∧
    (∀ r, r < 28 → sounding.written.getLsbD (8 * r + (0#3).toNat) = true) ∧ strictReset.strict = true ∧
    ∃ r, r < 28 ∧ strictReset.written.getLsbD (8 * r + (7#3).toNat) = false := by
  refine ⟨rfl, by decide, by decide, by decide, by decide, rfl, 27, by decide, by decide⟩

/-- The clauses for every KON_SHIFT: at 0 the byte of KEYON 0, 1 and of KEYOFF 7 breaks the protocol where nothing is
written, and that of KEYOFF 0 does not. -/
theorem witness_KeyonWritesTheKeyByte_anyShift :
    State.Violates { strictReset with konShift := 0 } 0x08#8 (keyByte 0 0#3 1#4) ∧
    ¬ State.Violates { strictReset with konShift := 0 } 0x08#8 (keyByte 0 0#3 0#4) := by
  unfold State.Violates
  decide

theorem witness_KeyoffWritesTheKeyByte : State.Violates { strictReset with konShift := 0 } 0x08#8 ((7#3).setWidth 8) ∧
    ¬ State.Violates { strictReset with konShift := 0 } 0x08#8 ((0#3).setWidth 8) ∧
    3 ≤ strictReset.konShift.val := by
  unfold State.Violates
  decide

/-- STRICT = 0 at KON_SHIFT 0, and STRICT = 1 at KON_SHIFT 3. -/
theorem witness_NoteKeysOffConfiguresAndKeysOn : State.strict { State.reset with konShift := 0 } = false ∧
    State.strict { strictReset with konShift := 3 } = true ∧
    3 ≤ (State.konShift { strictReset with konShift := 3 }).val := by decide

/-- The reset state with STRICT = 1 and KON_SHIFT = 0. -/
def strictAtShift0 : State := { strictReset with konShift := 0 }

/-- The first 29 writes of NOTE 0 with mask 1 there: the key-off byte and the 28 staged bytes. -/
def note29 : List (Byte × Byte) := (noteWrites 0 0#3 1#4 Staging.zero).take 29

/-- Writes that raise nothing where they stand break no rule there. -/
theorem no_violation_of_pass {ws : List (Byte × Byte)} (hw : ((List.range ws.length).all fun n => (ws[n]?).all fun p =>
    !(strictAtShift0.throughWrites (ws.take n)).protoViolation p.1 p.2) = true) :
    ∀ d b x r, ws = d ++ (b, x) :: r → ¬ (strictAtShift0.throughWrites d).Violates b x := by
  intro d b x r h hv
  have hp := List.all_eq_true.1 hw d.length (List.mem_range.2 (by simp [h]))
  rw [h, List.take_left, List.getElem?_append_right (Nat.le_refl _), Nat.sub_self] at hp
  simp only [List.getElem?_cons_zero, Option.all_some, (protoViolation_iff _ b x).2 ⟨rfl, hv⟩] at hp
  cases hp

/-- The strict clauses, at KON_SHIFT 0. In NOTE 0 with mask 0 no write breaks a rule where it stands. In NOTE 0 with mask
1 the first 29 break none, and the 30th, whose byte names channel 1, does. -/
theorem witness_NoteKeysOffConfiguresAndKeysOn_strict : strictAtShift0.strict = true ∧
    (∀ d b x r, noteWrites 0 0#3 0#4 Staging.zero = d ++ (b, x) :: r →
      ¬ (strictAtShift0.throughWrites d).Violates b x) ∧
    noteWrites 0 0#3 1#4 Staging.zero = note29 ++ [(0x08#8, 0x01#8)] ∧
    (∀ d b x r, note29 = d ++ (b, x) :: r → ¬ (strictAtShift0.throughWrites d).Violates b x) ∧
    (strictAtShift0.throughWrites note29).Violates 0x08#8 0x01#8 :=
  ⟨rfl, no_violation_of_pass (by decide), by decide, no_violation_of_pass (by decide),
    by unfold State.Violates; decide⟩

/-- Those two clauses' next states: in NOTE 0 with mask 1 PROTO and nothing issued (R113, R192), with mask 0 all 30
pairs. -/
theorem test_note_strict_at_shift_0 : (nextOf (exec (.note 0#3 1#4) strictAtShift0)).freg = 0x08#8 ∧
    (nextOf (exec (.note 0#3 1#4) strictAtShift0)).chip = [] ∧
    (nextOf (exec (.note 0#3 1#4) strictAtShift0)).written = 0#224 ∧
    (nextOf (exec (.note 0#3 0#4) strictAtShift0)).chip.length = 60 := by decide

/-- Log 22, R62 and R109: with KON_SHIFT = 0 the key-off byte of NOTE 7 is itself a key-on. -/
theorem test_note_at_shift_0 :
    (nextOf (exec (.note 7#3 0#4) { strictReset with konShift := 0 })).freg = 0x08#8 ∧
    (nextOf (exec (.note 7#3 0#4) { strictReset with konShift := 0 })).chip = [] := by decide

theorem witness_VoiceWritesTheStagedVoice : strictReset.strict = true ∧
    strictReset.keyed.getLsbD (7#3).toNat = false ∧ sounding.strict = true ∧
    sounding.keyed.getLsbD (0#3).toNat = true := by decide

theorem witness_StrictStepsObeyTheProtocol : strictReset.strict = true ∧
    ∃ t, step { strictReset with bus := [cmdWrite 0x07000000#32] } = .next t := ⟨rfl, _, rfl⟩

/-- The three clauses. -/
theorem witness_GenAcceptsItsCount : (0#24 = (0#24 : BitVec 24)) ∧ (0xFFFFFF#24 ≠ 0#24) ∧
    State.outRate { State.reset with outRate := 0#24 } = 0#24 ∧ State.reset.outRate ≠ 0#24 := by decide

/-- The four clauses: durations 0 and −32768 s, rate 0, count 0, count 1 at its smallest and the largest count. -/
theorem witness_RunAcceptsItsCount : (0#32).toInt ≤ 0 ∧ (0x80000000#32).toInt ≤ 0 ∧ 0 < (0x7FFF#32).toInt ∧
    (0x7FFF#32).toNat * (1#24).toNat + 32768 < 65536 ∧ 0 < (0x8000#32).toInt ∧
    65536 ≤ (0x8000#32).toNat * (1#24).toNat + 32768 ∧ (1#24 ≠ 0#24) ∧ 0 < (0x7FFFFFFF#32).toInt ∧
    65536 ≤ (0x7FFFFFFF#32).toNat * (0xFFFFFF#24).toNat + 32768 := by decide

theorem witness_SampleCountRoundsTiesUp : 0 < 0x7FFFFFFF ∧ 0x7FFFFFFF < 2 ^ 31 ∧ 0xFFFFFF < 2 ^ 24 := by decide

theorem witness_GenRunsToItsEnd : (2#24 ≠ 0#24) ∧ State.reset.outRate ≠ 0#24 ∧
    ∀ a ∈ (State.reset.arrivals.take (2#24).toNat), a.any = false := by decide

theorem witness_RunHandsOffAtItsEnd : 0 < (0x8000#32).toInt ∧ (1#24 ≠ 0#24) ∧
    1 = ((0x8000#32).toNat * (1#24).toNat + 32768) / 65536 ∧ 1 ≠ 0 ∧
    ∀ a ∈ (State.reset.arrivals.take 1), a.any = false := by decide

theorem witness_ConsecutiveGensCompose : State.reset.accepting ∧ State.reset.arrivals = [] ∧
    State.reset.outRate ≠ 0#24 ∧ (1#24 ≠ 0#24) ∧ (0xFFFFFE#24 ≠ 0#24) ∧ (1#24).toNat + (0xFFFFFE#24).toNat < 2 ^ 24 :=
  ⟨⟨rfl, rfl⟩, rfl, by decide, by decide, by decide, by decide⟩

/-- A step that consumes two native cycles, and one that consumes none. -/
theorem witness_OutputStepConsumesAndEmits : beforeStep4.outRate ≠ 0#24 ∧
    2 = (beforeStep4.acc.toNat + beforeStep4.clkFreq.toNat) / (64 * beforeStep4.outRate.toNat) ∧
    0 = (State.reset.acc.toNat + (128000#32).toNat) / (64 * (3000#24).toNat) := by decide

theorem witness_OutputStepIsTheRealAlgorithm : beforeStep4.outRate ≠ 0#24 := by decide

theorem witness_StepsCountCyclesExactly : beforeStep4.outRate ≠ 0#24 ∧
    beforeStep4.acc.toNat < 64 * beforeStep4.outRate.toNat := by decide

theorem witness_PassThroughIsTheIdentity : State.reset.outRate ≠ 0#24 ∧
    (3072000#32).toNat = 64 * State.reset.outRate.toNat ∧ State.reset.acc = 0#30 := by decide

/-- Both sides of the bound: one below it, and at it. -/
theorem witness_SampleAndHoldRepeats : (1#24 ≠ 0#24) ∧ (0#30).toNat + (63#32).toNat < 64 * (1#24).toNat ∧
    ¬ (0#30).toNat + (64#32).toNat < 64 * (1#24).toNat := by decide

theorem witness_DivisionsRoundAsStated : (0 : Nat) < 1 ∧ (0 : Nat) < 2 := by decide

/-- T6: three cycles at ACC = 0. -/
theorem witness_DatapathNeverOverflows : State.reset.outRate ≠ 0#24 ∧
    State.reset.acc.toNat < 64 * State.reset.outRate.toNat ∧
    [0x7FFFFFFF#32, 0x7FFFFFFF#32, 0x7FFFFFFF#32].length =
      State.nativeCycles { State.reset with clkFreq := 9216000#32 } := by decide

theorem witness_ResetLeavesTheStatedValues :
    sounding.takeAbort = sounding.takeHwreset ∨ sounding.takeAbort = sounding.takeAbort := .inr rfl

/-- Both clauses, in WAITSINK. -/
theorem witness_ResetEventsGiveThePowerOnState :
    State.phase { State.reset with phase := .waitSink } ≠ .gen ∧
    (withEvent hwresetNow State.reset).nextArrivals.hwreset = true ∧
    (withEvent abortNow State.reset).nextArrivals.hwreset = false ∧
    (withEvent abortNow State.reset).nextArrivals.abort = true := by decide

/-- A state inside the generation phase, with two samples to come. -/
theorem witness_StepsKeepTheRegisterInvariant : (generating 2#40).RegInv ∧ ∃ t, step (generating 2#40) = .next t := by
  refine ⟨?_, _, rfl⟩
  constructor <;> decide

theorem witness_StepsKeepTheHistoryInvariant :
    (generating 2#40).RegInv ∧ (generating 2#40).HistInv ∧ ∃ t, step (generating 2#40) = .next t := by
  refine ⟨witness_StepsKeepTheRegisterInvariant.1, ?_, _, rfl⟩
  constructor <;> decide

theorem witness_StepsKeepSamplesBounded : (generating 2#40).AmpInv ∧ ∃ t, step (generating 2#40) = .next t :=
  ⟨rfl, _, rfl⟩

/-- The refusal at its first offset, and a state that meets the invariant. -/
theorem witness_StepStopsOnlyOutsideYrs : step (waiting (rd 0x100)) = .refused .offsetOutsideYrs ∧
    (generating 2#40).RegInv := ⟨rfl, witness_StepsKeepTheRegisterInvariant.1⟩

theorem witness_SinkErrorEndsTheWait :
    State.phase { State.reset with phase := .waitSink } ≠ .gen ∧
    (withEvent sinkErrorNow State.reset).nextArrivals.hwreset = false ∧
    (withEvent sinkErrorNow State.reset).nextArrivals.abort = false ∧
    (withEvent sinkErrorNow State.reset).nextArrivals.sinkError = true := by decide

/-- Every clause: WAITSINK, IDLE, and GEN with one sample to come. -/
theorem witness_WaitEndsOnlyByAnEvent : State.phase { State.reset with phase := .waitSink } = .waitSink ∧
    State.reset.quiet ∧ (withEvent sinkDoneNow State.reset).nextArrivals.hwreset = false ∧
    (withEvent sinkDoneNow State.reset).nextArrivals.abort = false ∧
    (withEvent sinkDoneNow State.reset).nextArrivals.sinkError = false ∧
    (withEvent sinkDoneNow State.reset).nextArrivals.sinkDone = true ∧
    (withEvent sinkDoneNow State.reset).phase = .idle ∧ (withEvent sinkDoneNow (generating 1#40)).phase = .gen ∧
    (withEvent sinkDoneNow (generating 1#40)).remain ≠ 0#40 ∧
    ∃ t, step (withEvent sinkDoneNow (generating 1#40)) = .next t :=
  ⟨rfl, rfl, rfl, rfl, rfl, rfl, rfl, rfl, by decide, _, rfl⟩

/-- The three clauses, at the last sample to come. -/
theorem witness_EventsWaitForTheOutputStep : (generating 1#40).phase = .gen ∧ (generating 1#40).remain ≠ 0#40 ∧
    (generating 1#40).outRate ≠ 0#24 ∧ (withEvent hwresetNow (generating 1#40)).nextArrivals.hwreset = true ∧
    (withEvent abortNow (generating 1#40)).nextArrivals.hwreset = false ∧
    (withEvent abortNow (generating 1#40)).nextArrivals.abort = true ∧
    (withEvent sinkErrorNow (generating 1#40)).nextArrivals.hwreset = false ∧
    (withEvent sinkErrorNow (generating 1#40)).nextArrivals.abort = false ∧
    (withEvent sinkErrorNow (generating 1#40)).nextArrivals.sinkError = true := by decide

theorem witness_FaultIsStickyUntilReset : (State.powerOn false 4).phase = .idle ∧ (State.powerOn false 4).fault = true ∧
    (State.powerOn false 4).nextArrivals.hwreset = false ∧ (State.powerOn false 4).nextArrivals.abort = false ∧
    ∃ t, step { State.powerOn false 4 with bus := [wr 0x00 1#32] } = .next t := ⟨rfl, rfl, rfl, rfl, _, rfl⟩

theorem witness_BusyBlockServesNoAccess : (generating 2#40).phase ≠ .idle ∧
    ∃ t, step { generating 2#40 with bus := [rd 0x04] } = .next t := ⟨by decide, _, rfl⟩

/-- The hypotheses on the state, and every clause's offsets at the ends of their ranges. -/
theorem witness_ReadsReturnRegistersAndChangeNothing : (waiting (rd 0x58)).phase = .idle ∧ (waiting (rd 0x58)).quiet ∧
    (waiting (rd 0x58)).bus = [⟨.read, .word, 0x58⟩] ∧ 0x58 = 0x40 + 4 * 6 ∧ 0x58 ≤ 0xFF ∧
    ([0x00, 0x04, 0x08, 0x0C, 0x10, 0x14, 0x18, 0x1C, 0x20, 0x24, 0x28, 0x3C, 0x40, 0x58, 0x5C, 0xFC].all
      fun offset => decide (offset ≤ 0xFF ∧ offset % 4 = 0)) = true :=
  ⟨rfl, rfl, rfl, rfl, by decide, by decide⟩

theorem witness_WritesFollowTheRegisterMap : (waiting (wr 0x5C 5#32)).accepting ∧ (waiting (wr 0x5C 5#32)).quiet ∧
    (waiting (wr 0x5C 5#32)).bus = [⟨.write 5#32, .word, 0x5C⟩] ∧
    ([0x00, 0x04, 0x08, 0x10, 0x14, 0x18, 0x1C, 0x3C, 0x40, 0x58, 0x5C, 0xFC].all
      fun offset => decide (offset ≤ 0xFF ∧ offset % 4 = 0 ∧ offset ≠ 0x0C)) = true :=
  ⟨⟨rfl, rfl⟩, rfl, rfl, by decide⟩

theorem witness_StagingBytesAreLittleEndian : 27 < 28 ∧ 6 < 7 ∧ 3 < 4 ∧ 23 < 28 ∧ 23 / 4 ≠ 6 := by decide

/-- A narrow access at the last offset, and a misaligned word access. -/
theorem witness_NarrowAccessesGetBusErrors : (waiting ⟨.read, .byte, 0xFF⟩).phase = .idle ∧
    (waiting ⟨.read, .byte, 0xFF⟩).quiet ∧ (waiting ⟨.read, .byte, 0xFF⟩).bus = [⟨.read, .byte, 0xFF⟩] ∧ 0xFF ≤ 0xFF ∧
    Width.byte ≠ .word ∧ 0x02 % 4 ≠ 0 := ⟨rfl, rfl, rfl, by decide, by decide, by decide⟩

theorem witness_FaultedWritesAreDropped : (State.powerOn false 4).phase = .idle ∧ (State.powerOn false 4).quiet ∧
    (State.powerOn false 4).fault = true ∧
    State.bus { State.powerOn false 4 with bus := [wr 0xFC 1#32] } = [⟨.write 1#32, .word, 0xFC⟩] ∧ 0xFC ≤ 0xFF ∧
    0xFC % 4 = 0 := ⟨rfl, rfl, rfl, rfl, by decide, by decide⟩

theorem witness_HistoriesOnlyGrow : ∃ t, step (withEvent abortNow State.reset) = .next t := ⟨_, rfl⟩

theorem witness_OnlyGenerationClocksTheChip : State.reset.phase ≠ .gen ∧
    ∃ t, step (waiting (cmdWrite 0x08000F00#32)) = .next t := ⟨by decide, _, rfl⟩

theorem witness_AddressesAreOneFormula : (3#3).toNat ≤ 3 ∧ (5#3).toNat ≤ 5 ∧ 0x20 ≤ (0x20#8).toNat ∧
    0x20 ≤ (0xFF#8).toNat := by decide

end Sys2Proof.Tests
end

/-! # Reset (spec/10_state.md R42)

What the reset sequence leaves in each field, read off `State.resetSequence_eq` once, and from it what a hardware reset
and an abort leave. -/

namespace Sys2Proof.Machine

/-! ### resetSequence -/

section
variable (s : State) (b : Bool)

@[simp] theorem State.resetSequence_chipPresent : (s.resetSequence b).chipPresent = s.chipPresent := by
  simp only [State.resetSequence_eq, State.powerOn]
@[simp] theorem State.resetSequence_konShift : (s.resetSequence b).konShift = s.konShift := by
  simp only [State.resetSequence_eq, State.powerOn]
@[simp] theorem State.resetSequence_bus : (s.resetSequence b).bus = s.bus := by
  simp only [State.resetSequence_eq, State.powerOn]
@[simp] theorem State.resetSequence_arrivals : (s.resetSequence b).arrivals = s.arrivals := by
  simp only [State.resetSequence_eq, State.powerOn]
@[simp] theorem State.resetSequence_responses : (s.resetSequence b).responses = s.responses := by
  simp only [State.resetSequence_eq, State.powerOn]
@[simp] theorem State.resetSequence_strict : (s.resetSequence b).strict = false := by
  simp only [State.resetSequence_eq, State.powerOn]
@[simp] theorem State.resetSequence_rnd : (s.resetSequence b).rnd = false := by
  simp only [State.resetSequence_eq, State.powerOn]
@[simp] theorem State.resetSequence_fault : (s.resetSequence b).fault = (!s.chipPresent) := by
  simp only [State.resetSequence_eq, State.powerOn]
@[simp] theorem State.resetSequence_sinkErr : (s.resetSequence b).sinkErr = false := by
  simp only [State.resetSequence_eq, State.powerOn]
@[simp] theorem State.resetSequence_cancel : (s.resetSequence b).cancel = b := by
  simp only [State.resetSequence_eq, State.powerOn]
@[simp] theorem State.resetSequence_cause : (s.resetSequence b).cause =
    if s.chipPresent then none else some .nochip := by
  simp only [State.resetSequence_eq, State.powerOn]
@[simp] theorem State.resetSequence_freg : (s.resetSequence b).freg = 0#8 := by
  simp only [State.resetSequence_eq, State.powerOn]
@[simp] theorem State.resetSequence_finfo : (s.resetSequence b).finfo = 0#32 := by
  simp only [State.resetSequence_eq, State.powerOn]
@[simp] theorem State.resetSequence_clkFreq : (s.resetSequence b).clkFreq = Config.nominalClkFreq := by
  simp only [State.resetSequence_eq, State.powerOn]
@[simp] theorem State.resetSequence_outRate : (s.resetSequence b).outRate = Config.nominalOutRate := by
  simp only [State.resetSequence_eq, State.powerOn]
@[simp] theorem State.resetSequence_duration : (s.resetSequence b).duration = 0#32 := by
  simp only [State.resetSequence_eq, State.powerOn]
@[simp] theorem State.resetSequence_acc : (s.resetSequence b).acc = 0#30 := by
  simp only [State.resetSequence_eq, State.powerOn]
@[simp] theorem State.resetSequence_holdL : (s.resetSequence b).holdL = 0#32 := by
  simp only [State.resetSequence_eq, State.powerOn]
@[simp] theorem State.resetSequence_holdR : (s.resetSequence b).holdR = 0#32 := by
  simp only [State.resetSequence_eq, State.powerOn]
@[simp] theorem State.resetSequence_vcfg : (s.resetSequence b).vcfg = Staging.zero := by
  simp only [State.resetSequence_eq, State.powerOn]
@[simp] theorem State.resetSequence_keyed : (s.resetSequence b).keyed = 0#8 := by
  simp only [State.resetSequence_eq, State.powerOn]
@[simp] theorem State.resetSequence_written : (s.resetSequence b).written = 0#224 := by
  simp only [State.resetSequence_eq, State.powerOn]
@[simp] theorem State.resetSequence_phase : (s.resetSequence b).phase = .idle := by
  simp only [State.resetSequence_eq, State.powerOn]
@[simp] theorem State.resetSequence_remain : (s.resetSequence b).remain = 0#40 := by
  simp only [State.resetSequence_eq, State.powerOn]
@[simp] theorem State.resetSequence_playAfter : (s.resetSequence b).playAfter = false := by
  simp only [State.resetSequence_eq, State.powerOn]
@[simp] theorem State.resetSequence_playBlk : (s.resetSequence b).playBlk = false := by
  simp only [State.resetSequence_eq, State.powerOn]
@[simp] theorem State.resetSequence_chip : (s.resetSequence b).chip =
    if s.chipPresent then [] else Config.unresetChip := by
  simp only [State.resetSequence_eq, State.powerOn]
@[simp] theorem State.resetSequence_chipHistory : (s.resetSequence b).chipHistory =
    s.chipHistory ++ (if s.chipPresent then [.reset] else []) := by
  simp only [State.resetSequence_eq, State.powerOn]
@[simp] theorem State.resetSequence_outHistory : (s.resetSequence b).outHistory = s.outHistory := by
  simp only [State.resetSequence_eq, State.powerOn]

end

/-! ### What the host reads after a reset -/

/-- Every byte of the cleared staging buffer is 0, also past the 28 that exist. -/
@[simp] theorem Staging.byte_zero (k : Nat) : Staging.zero.byte k = 0#8 := by
  have word_zero : Staging.zero.word (k / 4) = 0#32 := by
    unfold Staging.word
    split <;> rfl
  simp [Staging.byte, word_zero]

/-- STATUS after the reset sequence is CHIPOK alone, or FAULT with the code of NOCHIP; CANCEL is bit 2 of either
(spec/10_state.md R25, R42). -/
theorem State.resetSequence_statusWord (s : State) (b : Bool) :
    (s.resetSequence b).statusWord =
      (if s.chipPresent then 0x00000008#32 else 0x00000031#32) ||| (if b then 0x00000004#32 else 0#32) := by
  cases h : s.chipPresent <;> cases b <;> simp [State.statusWord, causeCode, h]

/-! ### Hardware reset and abort -/

/-- A hardware reset is the reset sequence with CANCEL left 0 (spec/70_reset_and_hazards.md R210). -/
theorem State.takeHwreset_eq (s : State) : s.takeHwreset = s.resetSequence false := rfl

/-- An abort stops and discards the output, then runs the reset sequence with CANCEL set
(spec/60_exceptions.md R188). -/
theorem State.takeAbort_eq (s : State) : s.takeAbort = ((s.emit .stop).emit .discard).resetSequence true := rfl

/-- Either event is the reset sequence, from a state with the old strap, KON_SHIFT and chip history. -/
theorem State.resetEvent_eq_resetSequence {s t : State} (h : t = s.takeHwreset ∨ t = s.takeAbort) :
    ∃ (u : State) (b : Bool), t = u.resetSequence b ∧ u.chipPresent = s.chipPresent ∧ u.konShift = s.konShift ∧
      u.chipHistory = s.chipHistory := by
  rcases h with hw | ab
  · exact ⟨s, false, hw.trans s.takeHwreset_eq, rfl, rfl, rfl⟩
  · exact ⟨(s.emit .stop).emit .discard, true, ab.trans s.takeAbort_eq, rfl, rfl, rfl⟩

@[simp] theorem State.takeHwreset_cancel (s : State) : s.takeHwreset.cancel = false := by
  rw [State.takeHwreset_eq, State.resetSequence_cancel]

@[simp] theorem State.takeAbort_cancel (s : State) : s.takeAbort.cancel = true := by
  rw [State.takeAbort_eq, State.resetSequence_cancel]

@[simp] theorem State.takeHwreset_outHistory (s : State) : s.takeHwreset.outHistory = s.outHistory := by
  rw [State.takeHwreset_eq, State.resetSequence_outHistory]

@[simp] theorem State.takeAbort_outHistory (s : State) :
    s.takeAbort.outHistory = s.outHistory ++ [.stop, .discard] := by
  simp [State.takeAbort_eq]

theorem State.takeHwreset_statusWord (s : State) :
    s.takeHwreset.statusWord = if s.chipPresent then 0x00000008#32 else 0x00000031#32 := by
  rw [State.takeHwreset_eq, State.resetSequence_statusWord]
  cases s.chipPresent <;> rfl

theorem State.takeAbort_statusWord (s : State) :
    s.takeAbort.statusWord = if s.chipPresent then 0x0000000C#32 else 0x00000035#32 := by
  rw [State.takeAbort_eq, State.resetSequence_statusWord, State.emit_chipPresent, State.emit_chipPresent]
  cases s.chipPresent <;> rfl

end Sys2Proof.Machine

namespace Sys2Proof.Proofs

open Sys2Proof Sys2Proof.Machine

/-- Settles O39: what both events leave alike are the reset sequence's fields; what tells them apart (CANCEL, the output
history, STATUS) has a lemma for each event. -/
theorem resetLeavesTheStatedValues : Obligations.ResetLeavesTheStatedValues := by
  intro s t h
  rw [State.takeHwreset_statusWord, State.takeAbort_statusWord]
  obtain ⟨u, b, rfl, strap, shift, history⟩ := State.resetEvent_eq_resetSequence h
  have clock : Config.nominalClkFreq.toNat = 4000000 := rfl
  have rate : Config.nominalOutRate.toNat = 48000 := rfl
  simp +contextual [strap, shift, history, clock, rate, chipResetFn]

end Sys2Proof.Proofs

/-! # Memory (spec/20_memory.md R58 to R62, spec/60_exceptions.md R183)

One rule for each outcome of `RegWrite`, and the register addresses, the key byte and the staging words in arithmetic;
from these, what the spec says of chip registers and staging bytes. -/

namespace Sys2Proof.Machine

/-! ### RegWrite -/

/-- A logical register write issues two chip operations and changes nothing else (spec/20_memory.md R61). -/
theorem State.portPair_eq_issued (s : State) (a v : Byte) :
    s.portPair a v = s.issued [.write 0#1 a, .write 1#1 v] := by
  simp [State.portPair, State.chipWrite, State.issued, chipApply, chipWriteFn]

/-- A violation in strict mode raises PROTO with nothing issued (spec/60_exceptions.md R183). -/
theorem State.regWrite_of_violates {s : State} {a v : Byte} (strict : s.strict = true) (violates : s.Violates a v)
    (w : Word) : s.regWrite w a v = .error (s.recorded .proto w a) := by
  rw [State.regWrite_eq, if_pos ((protoViolation_iff s a v).2 ⟨strict, violates⟩)]

/-- A write the checks let pass is issued and tracked (spec/20_memory.md R62, steps 2 and 3). -/
theorem State.regWrite_of_passes {s : State} {a v : Byte} (passes : s.strict = true → ¬ s.Violates a v) (w : Word) :
    s.regWrite w a v = .ok ((s.issued [.write 0#1 a, .write 1#1 v]).track a v) := by
  have noProto : ¬ s.protoViolation a v = true := fun h =>
    let ⟨strict, violates⟩ := (protoViolation_iff s a v).1 h
    passes strict violates
  rw [State.regWrite_eq, if_neg noProto, State.portPair_eq_issued]

/-! ### Register addresses -/

/-- Selector sel of a channel is register index sel (spec/20_memory.md R58). -/
theorem chAddr_eq_regAddr (ch sel : BitVec 3) : chAddr ch sel = regAddr sel.toNat ch := rfl

/-- Selector sel of operator op is register index 4 + 4·sel + op (R58). -/
theorem opAddr_eq_regAddr (ch : BitVec 3) (op : BitVec 2) (sel : BitVec 3) :
    opAddr ch op sel = regAddr (4 + 4 * sel.toNat + op.toNat) ch := by
  unfold opAddr regAddr
  congr 1
  omega

/-- An address from 0x20 on is built from its own register index and channel (R58). -/
theorem regAddr_addrChannel {a : Byte} (config : 0x20 ≤ a.toNat) :
    regAddr ((a.toNat - 0x20) / 8) (addrChannel a) = a := by
  have index : (a.toNat - 0x20) / 8 < 28 := by omega
  apply BitVec.eq_of_toNat_eq
  rw [regAddr_toNat index, addrChannel_toNat]
  omega

/-! ### The key byte -/

theorem kon_toNat (shift : KonShift) (ch : BitVec 3) (mask : BitVec 4) :
    (kon shift ch mask).toNat = (mask.toNat * 2 ^ shift.val ||| ch.toNat) % 2 ^ 8 := by
  rw [kon_eq, keyByte, BitVec.toNat_ofNat]

theorem konChannel_kon {shift : KonShift} (apart : 3 ≤ shift.val) (ch : BitVec 3) (mask : BitVec 4) :
    konChannel (kon shift ch mask) = ch := by
  apply BitVec.eq_of_toNat_eq
  rw [konChannel_toNat, kon_eq, keyByte_channel shift ch mask apart]

theorem konMask_kon {shift : KonShift} (apart : 3 ≤ shift.val) (ch : BitVec 3) (mask : BitVec 4) :
    konMask shift (kon shift ch mask) = mask := by
  apply BitVec.eq_of_toNat_eq
  rw [konMask_toNat, kon_eq, keyMask_keyByte shift ch mask apart]

/-- At KON_SHIFT = 4 bit 3 lies between the two fields (spec/20_memory.md R59). -/
theorem kon_four (ch : BitVec 3) (mask : BitVec 4) : kon 4 ch mask = mask ++ 0#1 ++ ch := by
  have fields : (mask ++ 0#1 ++ ch).toNat = (mask.toNat <<< 1 ||| 0) <<< 3 ||| ch.toNat := by
    rw [BitVec.toNat_append, BitVec.toNat_append, BitVec.toNat_ofNat]
  have maskFits : mask.toNat * 2 ^ 4 < 2 ^ 8 := by omega
  have chFits : ch.toNat < 2 ^ 8 := by omega
  apply BitVec.eq_of_toNat_eq
  calc (kon 4 ch mask).toNat
      = (mask.toNat * 2 ^ 4 ||| ch.toNat) % 2 ^ 8 := kon_toNat 4 ch mask
    _ = mask.toNat * 2 ^ 4 ||| ch.toNat := Nat.mod_eq_of_lt (Nat.or_lt_two_pow maskFits chFits)
    _ = (mask.toNat <<< 1 ||| 0) <<< 3 ||| ch.toNat := by rw [Nat.or_zero, ← Nat.shiftLeft_add, Nat.shiftLeft_eq]
    _ = (mask ++ 0#1 ++ ch).toNat := fields.symm

theorem konChannel_eq_extractLsb' (v : Byte) : konChannel v = v.extractLsb' 0 3 :=
  BitVec.setWidth_eq_extractLsb' (by decide)

theorem konMask_four (v : Byte) : konMask 4 v = v.extractLsb' 4 4 := by
  apply BitVec.eq_of_toNat_eq
  simp [konMask]

/-! ### Staging words and bytes -/

/-- Writing VCFGi replaces word i and no other (spec/20_memory.md R53). -/
theorem Staging.word_setWord (v : Staging) {i k : Nat} (hi : i < 7) (hk : k < 7) (x : Word) :
    (v.setWord i x).word k = if k = i then x else v.word k := by
  interval_cases i <;> interval_cases k <;> rfl

theorem Staging.word_setWord_same (v : Staging) {i : Nat} (hi : i < 7) (x : Word) : (v.setWord i x).word i = x := by
  rw [v.word_setWord hi hi, if_pos rfl]

/-- Byte 4i + j is byte j of word i, counted from the least significant (spec/20_memory.md R60). -/
theorem Staging.byte_four_mul_add (v : Staging) (i : Nat) {j : Nat} (hj : j < 4) :
    v.byte (4 * i + j) = (v.word i).extractLsb' (8 * j) 8 := by
  have word : (4 * i + j) / 4 = i := by omega
  have lane : (4 * i + j) % 4 = j := by omega
  rw [Staging.byte, word, lane]

/-- A byte of another word is left. -/
theorem Staging.byte_setWord_of_ne (v : Staging) {i k : Nat} (hi : i < 7) (hk : k < 28) (ne : k / 4 ≠ i) (x : Word) :
    (v.setWord i x).byte k = v.byte k := by
  rw [Staging.byte, Staging.byte, v.word_setWord hi (by omega), if_neg ne]

end Sys2Proof.Machine

namespace Sys2Proof.Proofs

open Sys2Proof Sys2Proof.Machine

/-- Settles O9: the two outcomes of `RegWrite`, and the tracking bits one by one. -/
theorem regWriteChecksIssuesAndTracks : Obligations.RegWriteChecksIssuesAndTracks := by
  intro s w a v
  refine ⟨fun strict violates => State.regWrite_of_violates strict violates w, fun passes =>
    ⟨_, State.regWrite_of_passes passes w, rfl, fun i hi => ?written, fun c hc => ?keyed⟩⟩
  case written => exact trackWritten_get s.written a i hi
  case keyed => exact trackKeyed_get s.konShift s.keyed a v c hc

/-- Settles O54: the word of a byte is the one written or another, and a word keeps its own four bytes. -/
theorem stagingBytesAreLittleEndian : Obligations.StagingBytesAreLittleEndian := by
  refine ⟨fun _ _ _ => rfl, fun v i x hi => ⟨v.word_setWord_same hi x, fun j hj => ?_, fun k hk ne =>
    v.byte_setWord_of_ne hi hk ne x⟩⟩
  rw [Staging.byte_four_mul_add _ i hj, v.word_setWord_same hi]

/-- Settles O59: both computations are `regAddr` of an index below 28, where nothing wraps. -/
theorem addressesAreOneFormula : Obligations.AddressesAreOneFormula := by
  refine ⟨fun ch sel hsel => ⟨?chAddr, chAddr_eq_regAddr ch sel⟩,
    fun ch op sel hsel => ⟨?opAddr, opAddr_eq_regAddr ch op sel⟩,
    fun a config => ⟨by omega, regAddr_addrChannel config, addrChannel_toNat a⟩⟩
  case chAddr => rw [chAddr_eq_regAddr, regAddr_toNat (by omega)]
  case opAddr =>
    rw [opAddr_eq_regAddr, regAddr_toNat (by omega)]
    omega

/-- Settles O60, with the round trip from KON_SHIFT = 3 on read off `keyByte_channel` and `keyMask_keyByte`. -/
theorem keyByteIsMaskAndChannel : Obligations.KeyByteIsMaskAndChannel :=
  ⟨fun shift ch mask => ⟨kon_toNat shift ch mask, fun apart => ⟨konChannel_kon apart ch mask, konMask_kon apart ch mask⟩⟩,
    kon_four, fun shift v => ⟨konChannel_eq_extractLsb' v, konMask_toNat shift v⟩, konMask_four, rfl⟩

end Sys2Proof.Proofs

/-! # Encoding (spec/30_encoding.md R84, R85)

A row of the opcode map, as mask and match, asks for an opcode and for fields that are zero. The decoder asks for the
same, so that a word selects a command's row exactly when it decodes to a command of that row. -/

namespace Sys2Proof

/-! ### Mask and match as fields -/

/-- The mask of the k bits from `lo` up. -/
def fieldMask (lo k : Nat) : Word := place lo (BitVec.allOnes k)

/-- The mask of a list of fields, each given by its lowest bit and its width. -/
def fieldsMask (fields : List (Nat × Nat)) : Word := fields.foldr (fun f m => fieldMask f.1 f.2 ||| m) 0#32

theorem place_getLsbD {k : Nat} (lo : Nat) (field : BitVec k) {j : Nat} (hj : j < 32) :
    (place lo field).getLsbD j = (decide (lo ≤ j) && field.getLsbD (j - lo)) := by
  by_cases low : lo ≤ j <;> simp [place, hj, low]

/-- Masked to a field, a word is that field's bits in their place. -/
theorem and_fieldMask (w : Word) (lo k : Nat) : w &&& fieldMask lo k = place lo (w.extractLsb' lo k) := by
  apply BitVec.eq_of_getLsbD_eq
  intro j hj
  rw [BitVec.getLsbD_and, fieldMask, place_getLsbD _ _ hj, place_getLsbD _ _ hj]
  by_cases low : lo ≤ j <;> simp [low, Bool.and_comm]

theorem place_inj {lo k : Nat} (fits : lo + k ≤ 32) {f g : BitVec k} : place lo f = place lo g ↔ f = g := by
  refine ⟨fun h => BitVec.eq_of_getLsbD_eq fun j hj => ?_, congrArg (place lo)⟩
  have bit := congrArg (·.getLsbD (lo + j)) h
  simpa [place_getLsbD _ _ (show lo + j < 32 by omega)] using bit

theorem and_fieldMask_eq_place_iff (w : Word) {lo k : Nat} (fits : lo + k ≤ 32) (f : BitVec k) :
    w &&& fieldMask lo k = place lo f ↔ w.extractLsb' lo k = f := by
  rw [and_fieldMask w lo k, place_inj fits]

theorem and_fieldMask_eq_zero_iff (w : Word) {lo k : Nat} (fits : lo + k ≤ 32) :
    w &&& fieldMask lo k = 0#32 ↔ w.extractLsb' lo k = 0#k := by
  rw [← and_fieldMask_eq_place_iff w fits]
  simp [place]

/-- A word masked to some fields is zero when each of them is. -/
theorem and_fieldsMask_eq_zero_iff (w : Word) {fields : List (Nat × Nat)} (fit : ∀ f ∈ fields, f.1 + f.2 ≤ 32) :
    w &&& fieldsMask fields = 0#32 ↔ ∀ f ∈ fields, w.extractLsb' f.1 f.2 = 0#f.2 := by
  induction fields with
  | nil => simp [fieldsMask]
  | cons f rest ih =>
    have tail := ih fun g hg => fit g (List.mem_cons_of_mem f hg)
    have head := and_fieldMask_eq_zero_iff w (fit f List.mem_cons_self)
    rw [List.forall_mem_cons, ← head, ← tail, ← BitVec.or_eq_zero_iff, ← BitVec.and_or_distrib_left]
    rfl

/-- A mask's part in which the match has no bit asks for zeros there. -/
theorem and_or_eq_iff (w m : Word) {n x : Word} (outside : x &&& n = 0#32) :
    w &&& (m ||| n) = x ↔ w &&& m = x ∧ w &&& n = 0#32 := by
  have absorb : (m ||| n) &&& n = n := by
    apply BitVec.eq_of_getLsbD_eq
    intro j _
    rw [BitVec.getLsbD_and, BitVec.getLsbD_or]
    cases n.getLsbD j <;> simp
  rw [BitVec.and_or_distrib_left]
  constructor
  · intro h
    have zero : w &&& n = 0#32 := by
      rw [← absorb, ← BitVec.and_assoc, BitVec.and_or_distrib_left, h, outside]
    exact ⟨by rw [← h, zero, BitVec.or_zero], zero⟩
  · rintro ⟨matched, zero⟩
    rw [matched, zero, BitVec.or_zero]

/-! ### The rows of the opcode map -/

/-- A command's opcode. -/
def Instr.opcode : Instr → Byte
  | .nop => 0x00#8
  | .creset => 0x01#8
  | .wreg _ _ => 0x02#8
  | .chset _ _ _ => 0x03#8
  | .opset _ _ _ _ => 0x04#8
  | .keyon _ _ => 0x05#8
  | .keyoff _ => 0x06#8
  | .voice _ => 0x07#8
  | .note _ _ => 0x08#8
  | .rsinit => 0x10#8
  | .gen _ => 0x11#8
  | .run _ => 0x12#8
  | .play _ => 0x13#8
  | .stop => 0x14#8

/-- The fields of a command's word that must be zero. -/
def Instr.zeroFields : Instr → List (Nat × Nat)
  | .nop | .creset | .rsinit | .stop => [(0, 24)]
  | .wreg _ _ => [(16, 8)]
  | .chset _ _ _ => [(23, 1), (19, 2), (8, 8)]
  | .opset _ _ _ _ => [(8, 8)]
  | .keyon _ _ | .note _ _ => [(19, 5), (12, 4), (0, 8)]
  | .keyoff _ | .voice _ => [(19, 5), (0, 16)]
  | .gen _ => []
  | .run _ | .play _ => [(1, 23)]

theorem Instr.row_mtch (i : Instr) : i.row.mtch = opBits i.opcode := by
  cases i <;> simp only [Instr.row, Instr.opcode] <;> decide

theorem Instr.row_mask (i : Instr) : i.row.mask = fieldMask 24 8 ||| fieldsMask i.zeroFields := by
  cases i <;> simp only [Instr.row, Instr.zeroFields] <;> decide

theorem Instr.zeroFields_fit (i : Instr) : ∀ f ∈ i.zeroFields, f.1 + f.2 ≤ 32 := by
  cases i <;> simp only [Instr.zeroFields] <;> decide

/-- No must-be-zero field reaches into the opcode. -/
theorem Instr.opBits_opcode_and_zeroFields (i : Instr) : opBits i.opcode &&& fieldsMask i.zeroFields = 0#32 := by
  cases i <;> simp only [Instr.opcode, Instr.zeroFields] <;> decide

theorem Instr.row_extra_iff (i : Instr) (w : Word) :
    i.row.extra w = true ↔ (i.opcode = 0x04#8 → opSelOk (selField w) = true) := by
  cases i <;> simp [OpcodeRow.extra, Instr.row, Instr.opcode]

/-- A word selects a command's row when it has the command's opcode, its must-be-zero fields are zero and the extra
constraint holds. -/
theorem Instr.row_selects_iff (i : Instr) (w : Word) : i.row.selects w = true ↔
    opField w = i.opcode ∧ (∀ f ∈ i.zeroFields, w.extractLsb' f.1 f.2 = 0#f.2) ∧
      (i.opcode = 0x04#8 → opSelOk (selField w) = true) := by
  rw [OpcodeRow.selects, Bool.and_eq_true, i.row_extra_iff, beq_iff_eq, i.row_mask, i.row_mtch,
    and_or_eq_iff w _ i.opBits_opcode_and_zeroFields, and_fieldsMask_eq_zero_iff w i.zeroFields_fit, and_assoc, opBits,
    and_fieldMask_eq_place_iff w (by decide), opField]

theorem Instr.row_mem_opcodeRows (i : Instr) : i.row ∈ opcodeRows := by cases i <;> simp [opcodeRows, Instr.row]

theorem exists_row_of_mem_opcodeRows {r : OpcodeRow} (h : r ∈ opcodeRows) : ∃ i : Instr, i.row = r := by
  obtain ⟨i, -, rfl⟩ := List.mem_map.1 h
  exact ⟨i, rfl⟩

/-! ### The decoder against the rows -/

section
variable {w : Word} {i j : Instr}

theorem ifZero_eq_ok_iff {zero : Bool} : ifZero zero i = .ok j ↔ zero = true ∧ i = j := by
  cases zero <;> simp [ifZero]

theorem formatZ_eq_ok_iff : formatZ w i = .ok j ↔ w.extractLsb' 0 24 = 0#24 ∧ i = j := by
  simp [formatZ, ifZero_eq_ok_iff, nField]

theorem formatW_eq_ok_iff :
    formatW w = .ok j ↔ w.extractLsb' 16 8 = 0#8 ∧ .wreg (addrField w) (valField w) = j := by
  simp [formatW, ifZero_eq_ok_iff]

theorem formatSChset_eq_ok_iff : formatSChset w = .ok j ↔
    (w.extractLsb' 23 1 = 0#1 ∧ w.extractLsb' 19 2 = 0#2 ∧ w.extractLsb' 8 8 = 0#8) ∧
      .chset (chField w) (selField w) (valField w) = j := by
  simp [formatSChset, ifZero_eq_ok_iff, operatorField, addrField, and_assoc]

theorem formatSOpset_eq_ok_iff : formatSOpset w = .ok j ↔
    (w.extractLsb' 8 8 = 0#8 ∧ opSelOk (selField w) = true) ∧
      .opset (chField w) (operatorField w) (selField w) (valField w) = j := by
  by_cases zero : w.extractLsb' 8 8 = 0#8 <;> by_cases sel : opSelOk (selField w) = true <;>
    simp [formatSOpset, addrField, zero, sel]

theorem formatK_eq_ok_iff {f : BitVec 3 → BitVec 4 → Instr} : formatK w f = .ok j ↔
    (w.extractLsb' 19 5 = 0#5 ∧ w.extractLsb' 12 4 = 0#4 ∧ w.extractLsb' 0 8 = 0#8) ∧
      f (chField w) (maskField w) = j := by
  simp [formatK, ifZero_eq_ok_iff, valField, and_assoc]

theorem formatKNoMask_eq_ok_iff {f : BitVec 3 → Instr} : formatKNoMask w f = .ok j ↔
    (w.extractLsb' 19 5 = 0#5 ∧ w.extractLsb' 0 16 = 0#16) ∧ f (chField w) = j := by
  simp [formatKNoMask, ifZero_eq_ok_iff]

theorem formatB_eq_ok_iff {f : Bool → Instr} :
    formatB w f = .ok j ↔ w.extractLsb' 1 23 = 0#23 ∧ f (bField w) = j := by
  simp [formatB, ifZero_eq_ok_iff]

/-- The command of the same mnemonic with the operands of the word. -/
def Instr.readFrom (w : Word) : Instr → Instr
  | .nop => .nop
  | .creset => .creset
  | .wreg _ _ => .wreg (addrField w) (valField w)
  | .chset _ _ _ => .chset (chField w) (selField w) (valField w)
  | .opset _ _ _ _ => .opset (chField w) (operatorField w) (selField w) (valField w)
  | .keyon _ _ => .keyon (chField w) (maskField w)
  | .keyoff _ => .keyoff (chField w)
  | .voice _ => .voice (chField w)
  | .note _ _ => .note (chField w) (maskField w)
  | .rsinit => .rsinit
  | .gen _ => .gen (nField w)
  | .run _ => .run (bField w)
  | .play _ => .play (bField w)
  | .stop => .stop

@[simp] theorem Instr.readFrom_row : (i.readFrom w).row = i.row := by cases i <;> rfl

@[simp] theorem Instr.readFrom_readFrom : (i.readFrom w).readFrom w = i.readFrom w := by cases i <;> rfl

/-- A word with a command's opcode is accepted when it selects the command's row. -/
theorem decode_eq_ok_iff_of_opcode (op : opField w = i.opcode) :
    decode w = .ok j ↔ i.row.selects w = true ∧ i.readFrom w = j := by
  rw [i.row_selects_iff]
  cases i <;>
    simp [decode, op, Instr.opcode, Instr.zeroFields, Instr.readFrom, formatZ_eq_ok_iff, formatW_eq_ok_iff,
      formatSChset_eq_ok_iff, formatSOpset_eq_ok_iff, formatK_eq_ok_iff, formatKNoMask_eq_ok_iff, formatB_eq_ok_iff]

/-- Only the opcode of some command is accepted (R85 (a)). -/
theorem exists_opcode_of_decode (h : decode w = .ok j) : ∃ i : Instr, opField w = i.opcode := by
  unfold decode at h
  split at h
  case h_1 op => exact ⟨.nop, BitVec.eq_of_toNat_eq op⟩
  case h_2 op => exact ⟨.creset, BitVec.eq_of_toNat_eq op⟩
  case h_3 op => exact ⟨.wreg 0 0, BitVec.eq_of_toNat_eq op⟩
  case h_4 op => exact ⟨.chset 0 0 0, BitVec.eq_of_toNat_eq op⟩
  case h_5 op => exact ⟨.opset 0 0 0 0, BitVec.eq_of_toNat_eq op⟩
  case h_6 op => exact ⟨.keyon 0 0, BitVec.eq_of_toNat_eq op⟩
  case h_7 op => exact ⟨.keyoff 0, BitVec.eq_of_toNat_eq op⟩
  case h_8 op => exact ⟨.voice 0, BitVec.eq_of_toNat_eq op⟩
  case h_9 op => exact ⟨.note 0 0, BitVec.eq_of_toNat_eq op⟩
  case h_10 op => exact ⟨.rsinit, BitVec.eq_of_toNat_eq op⟩
  case h_11 op => exact ⟨.gen 0, BitVec.eq_of_toNat_eq op⟩
  case h_12 op => exact ⟨.run false, BitVec.eq_of_toNat_eq op⟩
  case h_13 op => exact ⟨.play false, BitVec.eq_of_toNat_eq op⟩
  case h_14 op => exact ⟨.stop, BitVec.eq_of_toNat_eq op⟩
  case h_15 => cases h

/-- The decoder is the opcode map (R84): it accepts the words that select a command's row, and reads the operands from
their fields. -/
theorem decode_eq_ok_iff : decode w = .ok i ↔ i.row.selects w = true ∧ i.readFrom w = i := by
  constructor
  · intro h
    obtain ⟨k, op⟩ := exists_opcode_of_decode h
    obtain ⟨selects, rfl⟩ := (decode_eq_ok_iff_of_opcode op).1 h
    exact ⟨by rwa [Instr.readFrom_row], Instr.readFrom_readFrom⟩
  · rintro ⟨selects, operands⟩
    obtain ⟨op, -, -⟩ := (i.row_selects_iff w).1 selects
    exact (decode_eq_ok_iff_of_opcode op).2 ⟨selects, operands⟩

theorem decode_of_row_selects (selects : i.row.selects w = true) : decode w = .ok (i.readFrom w) :=
  decode_eq_ok_iff.2 ⟨by rwa [Instr.readFrom_row], Instr.readFrom_readFrom⟩

end

/-- A word that selects a row decodes to a command of that row. -/
theorem exists_decode_of_selects {r : OpcodeRow} {w : Word} (hr : r ∈ opcodeRows) (selects : r.selects w = true) :
    ∃ i, decode w = .ok i ∧ i.row = r := by
  obtain ⟨i, rfl⟩ := exists_row_of_mem_opcodeRows hr
  exact ⟨i.readFrom w, decode_of_row_selects selects, Instr.readFrom_row⟩

end Sys2Proof

namespace Sys2Proof.Proofs

open Sys2Proof Sys2Proof.Machine

/-- Settles O3: two rows that a word selects are both the row of the one command it decodes to. -/
theorem decoderFollowsTheOpcodeMap : Obligations.DecoderFollowsTheOpcodeMap := by
  refine fun w => ⟨fun i accepted => ⟨i.row_mem_opcodeRows, (decode_eq_ok_iff.1 accepted).1, fun r hr selects => ?only⟩,
    fun rejected r hr => Bool.eq_false_iff.2 fun selects => ?none⟩
  case only =>
    obtain ⟨j, decoded, rfl⟩ := exists_decode_of_selects hr selects
    rw [Except.ok.inj (decoded.symm.trans accepted)]
  case none =>
    obtain ⟨j, decoded, -⟩ := exists_decode_of_selects hr selects
    exact rejected j decoded

/-- Settles O5: a word that ran as a command would select that command's row. -/
theorem illegalWordsRaiseIllcmd : Obligations.IllegalWordsRaiseIllcmd := by
  intro w selectsNone s
  rcases execute_cases w s with ⟨i, accepted, -⟩ | ⟨-, -, raised⟩
  · have selects : i.row.selects w = true := (decode_eq_ok_iff.1 accepted).1
    rw [selectsNone i.row i.row_mem_opcodeRows] at selects
    cases selects
  · exact raised

end Sys2Proof.Proofs

/-! # Register programmer (spec/40_register_programmer.md R101 to R108)

What the commands of one or more register writes share: the words no command has, the operands in a command's word, and
the two outcomes of a write to a channel's own register. -/

namespace Sys2Proof

/-! ### Words that are no command -/

section
variable {i : Instr} {w : Word}

/-- A command's opcode without the command's row is no command (spec/30_encoding.md R85 (b), (c)). -/
theorem isIllegal_of_opcode (op : opField w = i.opcode) (selectsNot : ¬ i.row.selects w = true) :
    Machine.IsIllegal w := by
  intro s
  rcases Machine.execute_cases w s with ⟨j, accepted, -⟩ | ⟨-, -, raised⟩
  · exact absurd ((decode_eq_ok_iff_of_opcode op).1 accepted).1 selectsNot
  · exact raised

/-- A must-be-zero field that is not zero (R85 (b)). -/
theorem isIllegal_of_field_ne_zero (op : opField w = i.opcode) {lo k : Nat} (mustBeZero : (lo, k) ∈ i.zeroFields)
    (field : w.extractLsb' lo k ≠ 0#k) : Machine.IsIllegal w := by
  refine isIllegal_of_opcode op fun selects => ?_
  obtain ⟨-, zero, -⟩ := (i.row_selects_iff w).1 selects
  exact field (zero (lo, k) mustBeZero)

/-- OPSET with a selector past 5 (R85 (c)). -/
theorem isIllegal_of_opset_selector (op : opField w = 0x04#8) (sel : 6 ≤ (selField w).toNat) :
    Machine.IsIllegal w := by
  refine isIllegal_of_opcode (i := .opset 0 0 0 0) op fun selects => ?_
  obtain ⟨-, -, bound⟩ := (Instr.row_selects_iff _ w).1 selects
  have legal : (selField w).toNat ≤ 5 := of_decide_eq_true (bound rfl)
  omega

/-- Bit 23 is the top bit of the selector (spec/30_encoding.md R82). -/
theorem bit23_ne_zero_of_selector (sel : 4 ≤ (w.extractLsb' 21 3).toNat) : w.extractLsb' 23 1 ≠ 0#1 := by
  intro zero
  have bit := congrArg BitVec.toNat zero
  simp only [BitVec.extractLsb'_toNat, Nat.shiftRight_eq_div_pow, BitVec.toNat_ofNat] at sel bit
  omega

end

/-! ### Command words in arithmetic -/

/-- A field placed below all bits of a word adds to it (spec/30_encoding.md R81). -/
theorem toNat_or_place {x : Word} {n lo k : Nat} (value : x.toNat = n) (fits : lo + k ≤ 32) (above : 2 ^ (lo + k) ∣ n)
    (field : BitVec k) : (x ||| place lo field).toNat = n + field.toNat * 2 ^ lo := by
  obtain ⟨q, rfl⟩ := above
  have low : field.toNat * 2 ^ lo < 2 ^ (lo + k) := by
    rw [Nat.pow_add, Nat.mul_comm]
    exact Nat.mul_lt_mul_of_pos_left field.isLt (by positivity)
  have inWord : field.toNat * 2 ^ lo < 2 ^ 32 := low.trans_le (Nat.pow_le_pow_right (by decide) fits)
  have width : field.toNat < 2 ^ 32 := field.isLt.trans_le (Nat.pow_le_pow_right (by decide) (by omega))
  have placed : (place lo field).toNat = field.toNat * 2 ^ lo := by
    rw [place, BitVec.toNat_shiftLeft, BitVec.toNat_setWidth, Nat.mod_eq_of_lt width, Nat.shiftLeft_eq,
      Nat.mod_eq_of_lt inWord]
  rw [BitVec.toNat_or, value, placed, Nat.two_pow_add_eq_or_of_lt low]

/-- The field in the lowest bits is not shifted. -/
theorem toNat_or_place_zero {x : Word} {n k : Nat} (value : x.toNat = n) (fits : k ≤ 32) (above : 2 ^ k ∣ n)
    (field : BitVec k) : (x ||| place 0 field).toNat = n + field.toNat := by
  have placed := toNat_or_place value (lo := 0) (by omega) (by rwa [Nat.zero_add]) field
  rwa [Nat.pow_zero, Nat.mul_one] at placed

theorem encode_wreg_toNat (addr val : Byte) :
    (encode (.wreg addr val)).toNat = 0x02000000 + addr.toNat * 2 ^ 8 + val.toNat := by
  have op : (opBits 0x02#8).toNat = 0x02000000 := by decide
  have addrPlaced := toNat_or_place op (lo := 8) (by decide) (by decide) addr
  exact toNat_or_place_zero addrPlaced (by decide) (by omega) val

theorem encode_chset_toNat (ch sel : BitVec 3) (val : Byte) : (encode (.chset ch sel val)).toNat =
    0x03000000 + sel.toNat * 2 ^ 21 + ch.toNat * 2 ^ 16 + val.toNat := by
  have op : (opBits 0x03#8).toNat = 0x03000000 := by decide
  have selPlaced := toNat_or_place op (lo := 21) (by decide) (by decide) sel
  have chPlaced := toNat_or_place selPlaced (lo := 16) (by decide) (by omega) ch
  exact toNat_or_place_zero chPlaced (by decide) (by omega) val

theorem encode_opset_toNat (ch : BitVec 3) (op : BitVec 2) (sel : BitVec 3) (val : Byte) :
    (encode (.opset ch op sel val)).toNat =
      0x04000000 + sel.toNat * 2 ^ 21 + op.toNat * 2 ^ 19 + ch.toNat * 2 ^ 16 + val.toNat := by
  have opcode : (opBits 0x04#8).toNat = 0x04000000 := by decide
  have selPlaced := toNat_or_place opcode (lo := 21) (by decide) (by decide) sel
  have opPlaced := toNat_or_place selPlaced (lo := 19) (by decide) (by omega) op
  have chPlaced := toNat_or_place opPlaced (lo := 16) (by decide) (by omega) ch
  exact toNat_or_place_zero chPlaced (by decide) (by omega) val

theorem encode_voice_toNat (ch : BitVec 3) : (encode (.voice ch)).toNat = 0x07000000 + ch.toNat * 2 ^ 16 :=
  toNat_or_place (x := opBits 0x07#8) (by decide) (by decide) (by decide) ch

end Sys2Proof

namespace Sys2Proof.Machine

/-! ### One register write -/

section
variable {s : State} {a v : Byte}

theorem singleWrite_of_violates (i : Instr) (strict : s.strict = true) (violates : s.Violates a v) :
    singleWrite i a v s = .next (s.recorded .proto (encode i) a) := by
  rw [singleWrite, State.regWrite_of_violates strict violates, endCommand_error]

theorem singleWrite_of_passes (i : Instr) (passes : s.strict = true → ¬ s.Violates a v) :
    singleWrite i a v s = .next ((s.issued [.write 0#1 a, .write 1#1 v]).track a v) := by
  rw [singleWrite, State.regWrite_of_passes passes, endCommand_ok]

end

/-! ### A write to a channel's own register -/

section
variable {s : State} {k : Nat} {ch : BitVec 3}

theorem regAddr_ne_keyReg (hk : k < 28) : regAddr k ch ≠ 0x08#8 := by
  intro key
  have address := regAddr_toNat hk ch
  rw [key, BitVec.toNat_ofNat] at address
  omega

/-- A register of a channel may not be written while the channel is keyed, and nothing else is asked
(spec/60_exceptions.md R183 (i)). -/
theorem violates_regAddr_iff (hk : k < 28) (v : Byte) :
    s.Violates (regAddr k ch) v ↔ s.keyed.getLsbD ch.toNat = true := by
  have config : 0x20 ≤ 0x20 + 8 * k + ch.toNat := by omega
  have channel : (0x20 + 8 * k + ch.toNat) % 8 = ch.toNat := by omega
  simp [State.Violates, regAddr_toNat hk, regAddr_ne_keyReg hk, config, channel]

/-- Such a write is tracked in WRITTEN alone, by the bit of its register (spec/10_state.md R36). -/
theorem State.track_regAddr (s : State) (hk : k < 28) (v : Byte) :
    s.track (regAddr k ch) v = { s with written := s.written ||| 1#224 <<< (8 * k + ch.toNat) } := by
  have config : isConfigReg (regAddr k ch) = true := by
    rw [isConfigReg_eq, decide_eq_true_eq, regAddr_toNat hk]
    omega
  have index : writtenIndex (regAddr k ch) = 8 * k + ch.toNat := by
    rw [writtenIndex, regAddr_toNat hk]
    omega
  rw [State.track, trackKeyed_of_ne (regAddr_ne_keyReg hk), trackWritten, if_pos config, index, setWritten]

theorem singleWrite_regAddr_of_unkeyed (i : Instr) (hk : k < 28) (v : Byte)
    (unkeyed : s.strict = true → s.keyed.getLsbD ch.toNat = false) :
    singleWrite i (regAddr k ch) v s = .next
      { s.issued [.write 0#1 (regAddr k ch), .write 1#1 v] with
        written := s.written ||| 1#224 <<< (8 * k + ch.toNat) } := by
  rw [singleWrite_of_passes i, State.track_regAddr _ hk]
  · rfl
  · rw [violates_regAddr_iff hk, Bool.not_eq_true]
    exact unkeyed

theorem singleWrite_regAddr_of_keyed (i : Instr) (hk : k < 28) (v : Byte) (strict : s.strict = true)
    (keyed : s.keyed.getLsbD ch.toNat = true) :
    singleWrite i (regAddr k ch) v s = .next (s.recorded .proto (encode i) (regAddr k ch)) :=
  singleWrite_of_violates i strict ((violates_regAddr_iff hk v).2 keyed)

end

/-! ### The commands of one write -/

theorem exec_wreg (a v : Byte) (s : State) : exec (.wreg a v) s = singleWrite (.wreg a v) a v s := rfl

theorem exec_chset (ch : BitVec 3) {sel : BitVec 3} (legal : sel.toNat ≤ 3) (v : Byte) (s : State) :
    exec (.chset ch sel v) s = singleWrite (.chset ch sel v) (regAddr sel.toNat ch) v s :=
  if_pos (decide_eq_true legal)

theorem exec_opset (ch : BitVec 3) (op : BitVec 2) {sel : BitVec 3} (legal : sel.toNat ≤ 5) (v : Byte) (s : State) :
    exec (.opset ch op sel v) s =
      singleWrite (.opset ch op sel v) (regAddr (4 + 4 * sel.toNat + op.toNat) ch) v s := by
  rw [← opAddr_eq_regAddr]
  exact if_pos (decide_eq_true legal)

/-! ### The 28 writes of VOICE -/

section
variable {s : State} {ch : BitVec 3}

/-- Writes that leave the key register alone leave KEYED as it is (spec/20_memory.md R62, step 3). -/
theorem State.afterWrites_keyed_of_ne_key {ws : List (Byte × Byte)} (noKey : ∀ p ∈ ws, p.1 ≠ 0x08#8) :
    (s.afterWrites ws).keyed = s.keyed := by
  rw [State.afterWrites_keyed, foldl_trackKeyed_of_ne _ _ noKey]

/-- Such writes issue their pairs and change WRITTEN beside. -/
theorem State.afterWrites_of_ne_key {ws : List (Byte × Byte)} (noKey : ∀ p ∈ ws, p.1 ≠ 0x08#8) :
    s.afterWrites ws = { s.issued (pairOps ws) with written := (s.afterWrites ws).written } := by
  rw [State.afterWrites_written, State.afterWrites_eq, foldl_trackKeyed_of_ne _ _ noKey]
  rfl

/-- No write of a voice raises where the channel is not keyed: none of those before it keys the channel. -/
theorem State.writesPass_voiceWrites (cfg : Staging) (unkeyed : s.strict = true → s.keyed.getLsbD ch.toNat = false) :
    s.WritesPass (voiceWrites ch cfg) := by
  intro done a v rest decomposed
  have before : ∀ p ∈ done, p.1 ≠ 0x08#8 := fun p hp =>
    voiceWrites_ne_key (ch := ch) (v := cfg) (by simp [decomposed, hp])
  have here : (a, v) ∈ voiceWrites ch cfg := by simp [decomposed]
  obtain ⟨k, hk, pair⟩ := mem_voiceWrites.1 here
  obtain ⟨rfl, rfl⟩ := Prod.mk.inj pair
  rw [Bool.eq_false_iff, Ne, protoViolation_iff, violates_regAddr_iff hk, State.afterWrites_strict,
    State.afterWrites_keyed_of_ne_key before]
  rintro ⟨strict, keyed⟩
  rw [unkeyed strict] at keyed
  cases keyed

theorem exec_voice_of_unkeyed (unkeyed : s.strict = true → s.keyed.getLsbD ch.toNat = false) :
    exec (.voice ch) s = .next (s.afterWrites (voiceWrites ch s.vcfg)) := by
  have completes : s.regWrites (encode (.voice ch)) (voiceWrites ch s.vcfg) = _ :=
    State.regWrites_ok (State.writesPass_voiceWrites s.vcfg unkeyed)
  rw [exec, execVoice, completes, endCommand_ok]

/-- A keyed channel stops VOICE at register 0 of the channel (R108). -/
theorem exec_voice_of_keyed (strict : s.strict = true) (keyed : s.keyed.getLsbD ch.toNat = true) :
    exec (.voice ch) s = .next (s.recorded .proto (encode (.voice ch)) (regAddr 0 ch)) := by
  obtain ⟨rest, first⟩ : ∃ rest, voiceWrites ch s.vcfg = [] ++ (regAddr 0 ch, s.vcfg.byte 0) :: rest := ⟨_, rfl⟩
  have violates : s.protoViolation (regAddr 0 ch) (s.vcfg.byte 0) = true :=
    (protoViolation_iff s _ _).2 ⟨strict, (violates_regAddr_iff (by decide) _).2 keyed⟩
  rw [exec, execVoice, first, State.regWrites_error s.writesPass_nil violates, endCommand_error]

/-- A voice marks the registers of its channel as written, and no other (spec/10_state.md R36). -/
theorem State.afterWrites_voiceWrites_written (s : State) (cfg : Staging) {i : Nat} (hi : i < 224) :
    (s.afterWrites (voiceWrites ch cfg)).written.getLsbD i = (i % 8 == ch.toNat || s.written.getLsbD i) := by
  rw [State.afterWrites_written, foldl_trackWritten_get _ _ i hi, voiceWrites_any ch cfg i hi]

end

end Sys2Proof.Machine

namespace Sys2Proof.Proofs

open Sys2Proof Sys2Proof.Machine

/-- Settles O18: all 28 writes pass, or the first does not. -/
theorem voiceWritesTheStagedVoice : Obligations.VoiceWritesTheStagedVoice := by
  refine ⟨fun ch s => ⟨fun unkeyed => ?passes, exec_voice_of_keyed⟩, encode_voice_toNat, fun w op illegal => ?illegal⟩
  case passes =>
    have noKey : ∀ p ∈ voiceWrites ch s.vcfg, p.1 ≠ 0x08#8 := fun _ => voiceWrites_ne_key
    exact ⟨_, exec_voice_of_unkeyed unkeyed, State.afterWrites_of_ne_key noKey, fun i hi =>
      s.afterWrites_voiceWrites_written s.vcfg hi⟩
  case illegal =>
    rcases illegal with upper | low
    · exact isIllegal_of_field_ne_zero (i := .voice 0) op (by simp [Instr.zeroFields]) upper
    · exact isIllegal_of_field_ne_zero (i := .voice 0) op (by simp [Instr.zeroFields]) low

/-- Settles O12: WREG is one `RegWrite`, with its two outcomes. -/
theorem wregWritesOneRegister : Obligations.WregWritesOneRegister := by
  refine ⟨fun a v s => ?exec, encode_wreg_toNat, fun w op field =>
    isIllegal_of_field_ne_zero (i := .wreg 0 0) op (by simp [Instr.zeroFields]) field⟩
  case exec =>
    rw [exec_wreg]
    exact ⟨singleWrite_of_violates _, fun passes => ⟨_, singleWrite_of_passes _ passes, rfl,
      trackWritten_get s.written a, trackKeyed_get s.konShift s.keyed a v⟩⟩

/-- Settles O13: CHSET is the write of register index sel of its channel. -/
theorem chsetWritesItsRegister : Obligations.ChsetWritesItsRegister := by
  refine ⟨fun ch sel v s legal => ?exec, encode_chset_toNat, fun w op illegal => ?illegal⟩
  case exec =>
    have index : sel.toNat < 28 := by omega
    rw [exec_chset ch legal]
    exact ⟨singleWrite_regAddr_of_unkeyed _ index v, singleWrite_regAddr_of_keyed _ index v⟩
  case illegal =>
    rcases illegal with selector | operator | middle
    · exact isIllegal_of_field_ne_zero (i := .chset 0 0 0) op (by simp [Instr.zeroFields])
        (bit23_ne_zero_of_selector selector)
    · exact isIllegal_of_field_ne_zero (i := .chset 0 0 0) op (by simp [Instr.zeroFields]) operator
    · exact isIllegal_of_field_ne_zero (i := .chset 0 0 0) op (by simp [Instr.zeroFields]) middle

/-- Settles O14: OPSET is the write of register index 4 + 4·sel + op of its channel. -/
theorem opsetWritesItsRegister : Obligations.OpsetWritesItsRegister := by
  refine ⟨fun ch op sel v s legal => ?exec, encode_opset_toNat, fun w op illegal => ?illegal⟩
  case exec =>
    have index : 4 + 4 * sel.toNat + op.toNat < 28 := by omega
    have address : BitVec.ofNat 8 (0x40 + 0x20 * sel.toNat + 8 * op.toNat + ch.toNat) =
        regAddr (4 + 4 * sel.toNat + op.toNat) ch := opAddr_eq_regAddr ch op sel
    rw [exec_opset ch op legal, address]
    exact ⟨singleWrite_regAddr_of_unkeyed _ index v, singleWrite_regAddr_of_keyed _ index v⟩
  case illegal =>
    rcases illegal with selector | middle
    · exact isIllegal_of_opset_selector op selector
    · exact isIllegal_of_field_ne_zero (i := .opset 0 0 0 0) op (by simp [Instr.zeroFields]) middle

/-- Settles O10: the row of NOP has no operand bits, so one that is set makes the word illegal. -/
theorem nopDoesNothing : Obligations.NopDoesNothing :=
  ⟨fun _ => rfl, rfl, fun _ op operands =>
    isIllegal_of_field_ne_zero (i := .nop) op (by simp [Instr.zeroFields]) operands⟩

/-- Settles O11: CRESET is its written-out next state, and its row, like that of NOP, has no operand bits. -/
theorem cresetResetsChipAndTracking : Obligations.CresetResetsChipAndTracking :=
  ⟨fun _ => rfl, rfl, fun _ op operands =>
    isIllegal_of_field_ne_zero (i := .creset) op (by simp [Instr.zeroFields]) operands⟩

end Sys2Proof.Proofs

/-! # Resampler (spec/41_resampler.md R131 to R147)

The two divisions as floors and ceilings of the rational quotient, how far an average can lie from it, and the
quantities of the output step in arithmetic. -/

namespace Sys2Proof.Machine

/-! ### The divisions -/

section
variable {a : Int} {n : Nat}

theorem tdiv_neg (a : Int) (n : Nat) : tdiv (-a) n = -tdiv a n := by
  rw [tdiv, tdiv, Int.sign_neg, Int.natAbs_neg, Int.neg_mul]

theorem rdiv_neg (a : Int) (n : Nat) : rdiv (-a) n = -rdiv a n := by
  rw [rdiv, rdiv, Int.sign_neg, Int.natAbs_neg, Int.neg_mul]

theorem tdiv_natCast (m n : Nat) : tdiv m n = (m / n : Nat) := by
  rcases Nat.eq_zero_or_pos m with rfl | positive
  · simp [tdiv]
  · rw [tdiv, Int.sign_natCast_of_ne_zero positive.ne', Int.natAbs_natCast, one_mul]

/-- At 0, where the sign factor is 0, the rounded quotient `n div 2n` is 0 as well. -/
theorem rdiv_natCast (m : Nat) (pos : 0 < n) : rdiv m n = ((2 * m + n) / (2 * n) : Nat) := by
  rcases Nat.eq_zero_or_pos m with rfl | positive
  · have half : n / (2 * n) = 0 := Nat.div_eq_of_lt (by omega)
    simp [rdiv, half]
  · rw [rdiv, Int.sign_natCast_of_ne_zero positive.ne', Int.natAbs_natCast, one_mul]

theorem tdiv_eq_floor (nonneg : 0 ≤ a) (n : Nat) : tdiv a n = ⌊(a : Rat) / n⌋ := by
  lift a to Nat using nonneg
  rw [tdiv_natCast, Int.cast_natCast, Rat.floor_natCast_div_natCast, Int.natCast_ediv]

theorem rdiv_eq_floor (nonneg : 0 ≤ a) (pos : 0 < n) : rdiv a n = ⌊(a : Rat) / n + 1 / 2⌋ := by
  lift a to Nat using nonneg
  have oneFraction : ((a : Int) : Rat) / n + 1 / 2 = (2 * a + n : Nat) / (2 * n : Nat) := by
    push_cast
    field_simp
  rw [rdiv_natCast a pos, oneFraction, Rat.floor_natCast_div_natCast, Int.natCast_ediv]

theorem tdiv_eq_ceil (nonpos : a ≤ 0) (n : Nat) : tdiv a n = ⌈(a : Rat) / n⌉ := by
  have mirrored := tdiv_eq_floor (neg_nonneg.2 nonpos) n
  rw [tdiv_neg, Int.cast_neg, neg_div, Int.floor_neg] at mirrored
  exact neg_inj.1 mirrored

theorem rdiv_eq_ceil (nonpos : a ≤ 0) (pos : 0 < n) : rdiv a n = ⌈(a : Rat) / n - 1 / 2⌉ := by
  have mirrored := rdiv_eq_floor (neg_nonneg.2 nonpos) pos
  have mirroredQuotient : ((-a : Int) : Rat) / n + 1 / 2 = -((a : Rat) / n - 1 / 2) := by
    push_cast
    ring
  rw [rdiv_neg, mirroredQuotient, Int.floor_neg] at mirrored
  exact neg_inj.1 mirrored

/-! ### The average -/

theorem avg_neg (rnd : Bool) (a : Int) (n : Nat) : avg rnd (-a) n = -avg rnd a n := by
  cases rnd with
  | false => exact tdiv_neg a n
  | true => exact rdiv_neg a n

/-- From 0 up, an average is the floor of the quotient, moved up by a half where CTRL.RND = 1. -/
theorem avg_eq_floor (rnd : Bool) (nonneg : 0 ≤ a) (pos : 0 < n) :
    avg rnd a n = ⌊(a : Rat) / n + if rnd then 1 / 2 else 0⌋ := by
  cases rnd with
  | false => exact (tdiv_eq_floor nonneg n).trans (by simp)
  | true => exact rdiv_eq_floor nonneg pos

theorem abs_avg_sub_lt_one_of_nonneg (rnd : Bool) (nonneg : 0 ≤ a) (pos : 0 < n) :
    |(avg rnd a n : Rat) - (a : Rat) / n| < 1 := by
  have shift : (0 : Rat) ≤ (if rnd then 1 / 2 else 0) ∧ (if rnd then 1 / 2 else 0 : Rat) < 1 := by
    cases rnd <;> norm_num
  rw [avg_eq_floor rnd nonneg pos, abs_sub_lt_iff]
  have below := Int.floor_le ((a : Rat) / n + if rnd then 1 / 2 else 0)
  have above := Int.lt_floor_add_one ((a : Rat) / n + if rnd then 1 / 2 else 0)
  constructor <;> linarith

/-- In both modes and for both signs an average is less than 1 away from the quotient. -/
theorem abs_avg_sub_lt_one (rnd : Bool) (a : Int) (pos : 0 < n) : |(avg rnd a n : Rat) - (a : Rat) / n| < 1 := by
  rcases le_total 0 a with nonneg | nonpos
  · exact abs_avg_sub_lt_one_of_nonneg rnd nonneg pos
  · have mirrored := abs_avg_sub_lt_one_of_nonneg rnd (neg_nonneg.2 nonpos) pos
    rwa [avg_neg, Int.cast_neg, Int.cast_neg, neg_div, neg_sub_neg, abs_sub_comm] at mirrored

/-- Integer bounds on the quotient are bounds on the average. -/
theorem avg_mem_Icc (rnd : Bool) {lo hi : Int} (pos : 0 < n) (low : n * lo ≤ a) (high : a ≤ n * hi) :
    avg rnd a n ∈ Set.Icc lo hi := by
  obtain ⟨near, near'⟩ := abs_sub_lt_iff.1 (abs_avg_sub_lt_one rnd a pos)
  have divisor : (0 : Rat) < n := by exact_mod_cast pos
  have lowQuotient : (lo : Rat) ≤ a / n := (le_div_iff₀' divisor).2 (by exact_mod_cast low)
  have highQuotient : (a : Rat) / n ≤ hi := (div_le_iff₀' divisor).2 (by exact_mod_cast high)
  have low' : (lo : Rat) < ((avg rnd a n + 1 : Int) : Rat) := by push_cast; linarith
  have high' : ((avg rnd a n : Int) : Rat) < ((hi + 1 : Int) : Rat) := by push_cast; linarith
  exact ⟨Int.lt_add_one_iff.1 (Int.cast_lt.1 low'), Int.lt_add_one_iff.1 (Int.cast_lt.1 high')⟩

theorem natAbs_avg_le (rnd : Bool) (a : Int) (pos : 0 < n) : (avg rnd a n).natAbs ≤ a.natAbs := by
  have magnitude : (a.natAbs : Int) ≤ n * a.natAbs := by exact_mod_cast Nat.le_mul_of_pos_left _ pos
  obtain ⟨low, high⟩ := avg_mem_Icc rnd (lo := -a.natAbs) (hi := a.natAbs) (a := a) pos
    (by rw [Int.mul_neg]; omega) (by omega)
  omega

end

/-! ### Sums of samples -/

/-- n signed 32-bit samples sum to n times their range (spec/41_resampler.md R147). -/
theorem sum_toInt_mem_Icc (samples : List Word) : (samples.map BitVec.toInt).sum ∈
    Set.Icc (samples.length * (-2 ^ 31) : Int) (samples.length * (2 ^ 31 - 1)) := by
  have low := (samples.map BitVec.toInt).card_nsmul_le_sum (-2 ^ 31) (List.forall_mem_map.2 fun x _ => x.le_toInt)
  have high := (samples.map BitVec.toInt).sum_le_card_nsmul (2 ^ 31 - 1)
    (List.forall_mem_map.2 fun x _ => Int.le_sub_one_of_lt x.toInt_lt)
  simp only [List.length_map, nsmul_eq_mul] at low high
  exact ⟨low, high⟩

theorem natAbs_sum_toInt_le (samples : List Word) :
    ((samples.map BitVec.toInt).sum).natAbs ≤ samples.length * 2 ^ 31 := by
  obtain ⟨low, high⟩ := sum_toInt_mem_Icc samples
  omega

theorem clockSum_mem_Icc (f : ChipState → Word) (c : ChipState) (n : Nat) :
    clockSum f c n ∈ Set.Icc (n * (-2 ^ 31) : Int) (n * (2 ^ 31 - 1)) := by
  have bounds := sum_toInt_mem_Icc ((List.range n).map fun k => f (c ++ List.replicate k .clock))
  rwa [List.map_map, List.length_map, List.length_range] at bounds

/-- The k-th of the clocked samples is the engine's after k native cycles. -/
theorem clockSum_eq_sum_chipAfterClocks (f : ChipState → Word) (c : ChipState) (n : Nat) :
    clockSum f c n = ((List.range n).map fun k => (f (chipAfterClocks c k)).toInt).sum := by
  simp only [clockSum, chipAfterClocks_eq]

/-! ### HOLD after the native cycles -/

section
variable (s : State) (f : ChipState → Word) (held : Word)

/-- With no native cycle the pair is kept (spec/41_resampler.md R142). -/
@[simp] theorem heldAfter_zero : heldAfter s f held 0 = held := rfl

/-- The average of signed 32-bit samples is one, in both modes (R141, R143). -/
theorem heldAfter_toInt {n : Nat} (pos : 0 < n) :
    (heldAfter s f held n).toInt = avg s.rnd (clockSum f s.chip n) n := by
  obtain ⟨low, high⟩ := clockSum_mem_Icc f s.chip n
  obtain ⟨fitsLow, fitsHigh⟩ := avg_mem_Icc s.rnd pos low high
  rw [heldAfter, if_neg pos.ne', BitVec.toInt_ofInt_eq_self (by decide) fitsLow (Int.lt_of_le_sub_one fitsHigh)]

end

/-! ### The quantities of one step -/

theorem State.den_eq (s : State) : s.den = 64 * s.outRate.toNat := rfl

theorem State.nativeCycles_eq (s : State) :
    s.nativeCycles = (s.acc.toNat + s.clkFreq.toNat) / (64 * s.outRate.toNat) := rfl

theorem State.le_den {s : State} (rate : s.outRate ≠ 0#24) : 64 ≤ s.den := by
  have positive : s.outRate.toNat ≠ 0 := fun zero => rate (BitVec.eq_of_toNat_eq zero)
  rw [State.den_eq]
  omega

theorem State.den_lt (s : State) : s.den < 2 ^ 30 := by
  rw [State.den_eq]
  omega

theorem State.phaseSum_lt (s : State) : s.phaseSum < 2 ^ 33 := by
  rw [State.phaseSum]
  omega

theorem State.nativeCycles_le {s : State} (rate : s.outRate ≠ 0#24) : s.nativeCycles ≤ s.phaseSum / 64 :=
  Nat.div_le_div_left (State.le_den rate) (by decide)

/-- The remainder fits ACC (R140, R147). -/
theorem State.nextAcc_toNat {s : State} (rate : s.outRate ≠ 0#24) : s.nextAcc.toNat = s.phaseSum % s.den := by
  have remainder : s.phaseSum % s.den < s.den := Nat.mod_lt _ (Nat.lt_of_lt_of_le (by decide) (State.le_den rate))
  rw [State.nextAcc, BitVec.toNat_ofNat, Nat.mod_eq_of_lt (remainder.trans s.den_lt)]

/-- The rational accumulator after the addition is `t / den` (R144). -/
theorem State.accValue_add_increment (s : State) :
    s.accValue + s.increment = (s.phaseSum : Rat) / (s.den : Rat) := by
  rw [State.accValue, State.increment, ← add_div, State.phaseSum, State.den_eq, Nat.cast_add]

/-! ### The output step, field by field -/

section
variable (s : State) (chip : ChipSample)

@[simp] theorem State.outputStep_acc : (s.outputStep chip).acc = s.nextAcc := by rw [State.outputStep_eq]

@[simp] theorem State.outputStep_outRate : (s.outputStep chip).outRate = s.outRate := by
  simp only [State.outputStep_eq, State.issued]

@[simp] theorem State.outputStep_holdL :
    (s.outputStep chip).holdL = heldAfter s (fun c => (chip c).1) s.holdL s.nativeCycles := by
  rw [State.outputStep_eq]

@[simp] theorem State.outputStep_holdR :
    (s.outputStep chip).holdR = heldAfter s (fun c => (chip c).2) s.holdR s.nativeCycles := by
  rw [State.outputStep_eq]

/-- An output step changes ACC, HOLD, the chip and the two histories: n clocks and one sample of the new HOLD (R140). -/
theorem State.outputStep_issues_and_emits : s.outputStep chip = { s with
    acc := (s.outputStep chip).acc
    holdL := (s.outputStep chip).holdL
    holdR := (s.outputStep chip).holdR
    chip := chipAfterClocks s.chip s.nativeCycles
    chipHistory := s.chipHistory ++ List.replicate s.nativeCycles (.op .clock)
    outHistory := s.outHistory ++
      [.sample (norm (s.outputStep chip).holdL) (norm (s.outputStep chip).holdR)] } := by
  simp only [State.outputStep_eq, State.issued, foldl_chipApply, chipAfterClocks_eq, List.map_replicate]

end

/-! ### The sample count -/

/-- Adding half the divisor before the division rounds to nearest, a tie going up (spec/41_resampler.md R134). -/
theorem sampleCount_eq_floor (d rate : Nat) :
    (sampleCount d rate : Int) = ⌊(d : Rat) / 65536 * (rate : Rat) + 1 / 2⌋ := by
  have oneFraction : (d : Rat) / 65536 * rate + 1 / 2 = (d * rate + 32768 : Nat) / (65536 : Nat) := by
    push_cast
    ring
  rw [oneFraction, Rat.floor_natCast_div_natCast, sampleCount, Int.natCast_ediv]

end Sys2Proof.Machine

namespace Sys2Proof.Proofs

open Sys2Proof Sys2Proof.Machine

/-- Settles O25: the numerator is largest at the largest duration and rate. -/
theorem sampleCountRoundsTiesUp : Obligations.SampleCountRoundsTiesUp := by
  refine fun d rate _ => ⟨rfl, sampleCount_eq_floor d rate, fun hd hrate => ?bounds⟩
  case bounds =>
    have product : d * rate ≤ (2 ^ 31 - 1) * (2 ^ 24 - 1) := Nat.mul_le_mul (by omega) (by omega)
    rw [sampleCount]
    omega

/-- Settles O29: the frame is the output step written out; HOLD is the average, which a 32-bit word holds. -/
theorem outputStepConsumesAndEmits : Obligations.OutputStepConsumesAndEmits := by
  rintro chip s _ _ rate rfl rfl
  refine ⟨s.outputStep_issues_and_emits chip, ?acc, fun noCycle => ?kept, ?averaged⟩
  case acc => rw [State.outputStep_acc, State.nextAcc_toNat rate, State.phaseSum, State.den_eq]
  case kept =>
    rw [← State.nativeCycles_eq] at noCycle
    rw [State.outputStep_holdL, State.outputStep_holdR, noCycle, heldAfter_zero, heldAfter_zero]
    exact ⟨rfl, rfl⟩
  case averaged =>
    rintro cycles _ _ rfl rfl
    rw [← State.nativeCycles_eq] at cycles ⊢
    rw [State.outputStep_holdL, State.outputStep_holdR, heldAfter_toInt _ _ _ cycles, heldAfter_toInt _ _ _ cycles,
      clockSum_eq_sum_chipAfterClocks, clockSum_eq_sum_chipAfterClocks]
    exact ⟨rfl, rfl⟩

/-- Settles O30: `t / den` has floor `t div den` and fractional part `(t mod den) / den`. -/
theorem outputStepIsTheRealAlgorithm : Obligations.OutputStepIsTheRealAlgorithm := by
  intro chip s rate
  rw [State.accValue_add_increment]
  constructor
  · rw [Rat.floor_natCast_div_natCast, State.nativeCycles, Int.natCast_ediv]
  · rw [Int.fract_div_natCast_eq_div_natCast_mod, State.accValue, State.outputStep_acc, State.outputStep_outRate,
      State.nextAcc_toNat rate, State.den_eq]

/-- Settles O34: both divisions are a floor from 0 up and its mirror image, a ceiling, from 0 down. -/
theorem divisionsRoundAsStated : Obligations.DivisionsRoundAsStated := by
  refine fun a n pos =>
    ⟨rfl, rfl, ?truncated, ?rounded, natAbs_avg_le false a pos, natAbs_avg_le true a pos, rfl, rfl⟩
  case truncated =>
    split
    next nonneg => exact tdiv_eq_floor nonneg n
    next negative => exact tdiv_eq_ceil (not_le.1 negative).le n
  case rounded =>
    split
    next nonneg => exact rdiv_eq_floor nonneg pos
    next negative => exact rdiv_eq_ceil (not_le.1 negative).le pos

/-- Settles O35: den ≥ 64 brings the count of native cycles, and with it the sums, 6 bits below t. -/
theorem datapathNeverOverflows : Obligations.DatapathNeverOverflows := by
  intro s samples rate accBound count
  have sumBound := natAbs_sum_toInt_le samples
  rw [count] at sumBound
  have phaseSum := s.phaseSum_lt
  have cycles := State.nativeCycles_le rate
  exact ⟨State.le_den rate, s.den_lt, accBound, phaseSum, cycles, by omega, sumBound, by omega⟩

/-- Settles O22: RSINIT is its written-out next state, and its row, like that of NOP, has no operand bits. -/
theorem rsinitClearsTheResampler : Obligations.RsinitClearsTheResampler :=
  ⟨fun _ => rfl, rfl, fun _ op operands =>
    isIllegal_of_field_ne_zero (i := .rsinit) op (by simp [Instr.zeroFields]) operands⟩

end Sys2Proof.Proofs

/-! # Normalizer and sink (spec/42_normalizer_sink.md R160 to R164)

The normalizer as an integer and as the value it denotes, and the word of PLAY in arithmetic. -/

namespace Sys2Proof.Machine

/-! ### The normalizer -/

theorem normInt_mem_Icc (x : Int) : normInt x ∈ Set.Icc (-32768) 32768 := by
  simp only [normInt, Config.normScale, Set.mem_Icc]
  omega

/-- 17 bits hold both ends of the clamped range (R161). -/
theorem norm_toInt (x : Word) : (norm x).toInt = normInt x.toInt := by
  obtain ⟨low, high⟩ := normInt_mem_Icc x.toInt
  rw [norm, BitVec.toInt_ofInt_eq_self (by decide) (by omega) (by omega)]

theorem normValue_eq (k : BitVec 17) : normValue k = (k.toInt : Rat) / 32768 := rfl

/-- Clamping then scaling is scaling then clamping: the division by 32768 is monotone (R160). -/
theorem normInt_div_eq_clamp (x : Int) : (normInt x : Rat) / 32768 = min (max ((x : Rat) / 32768) (-1)) 1 := by
  have scale : (0 : Rat) ≤ 32768 := by norm_num
  have lower : (-1 : Rat) = -32768 / 32768 := by norm_num
  have upper : (1 : Rat) = 32768 / 32768 := by norm_num
  calc (normInt x : Rat) / 32768
      = min (max (x : Rat) (-32768)) 32768 / 32768 := by rw [normInt, Config.normScale]; push_cast; rfl
    _ = min (max ((x : Rat) / 32768) (-32768 / 32768)) (32768 / 32768) := by
      rw [max_div_div_right scale, min_div_div_right scale]
    _ = min (max ((x : Rat) / 32768) (-1)) 1 := by rw [← lower, ← upper]

end Sys2Proof.Machine

namespace Sys2Proof

/-! ### PLAY's word -/

theorem encode_play_toNat (b : Bool) : (encode (.play b)).toNat = 0x13000000 + b.toNat := by
  have op : (opBits 0x13#8).toNat = 0x13000000 := by decide
  rw [← BitVec.toNat_ofBool b]
  exact toNat_or_place_zero op (by decide) (by decide) (BitVec.ofBool b)

end Sys2Proof

namespace Sys2Proof.Proofs

open Sys2Proof Sys2Proof.Machine

/-- Settles O36: the clamped integer fits the 17 bits, and scaling commutes with the clamp. -/
theorem normalizerScalesAndClamps : Obligations.NormalizerScalesAndClamps := by
  refine fun x => ⟨norm_toInt x, normValue_eq _, ?value⟩
  case value => rw [normValue_eq, norm_toInt, normInt_div_eq_clamp]

/-- Settles O37: PLAY is the hand-off, and its row has the operand bit 0 alone. -/
theorem playHandsOff : Obligations.PlayHandsOff :=
  ⟨fun _ _ => rfl, encode_play_toNat, fun _ op operands =>
    isIllegal_of_field_ne_zero (i := .play false) op (by simp [Instr.zeroFields]) operands⟩

/-- Settles O38: STOP is one emitted event, and its row, like that of NOP, has no operand bits. -/
theorem stopCancelsPlayback : Obligations.StopCancelsPlayback :=
  ⟨fun _ => rfl, rfl, fun _ op operands =>
    isIllegal_of_field_ne_zero (i := .stop) op (by simp [Instr.zeroFields]) operands⟩

end Sys2Proof.Proofs

/-! # Exceptions (spec/60_exceptions.md R190, R192)

Fault entry is the fault record and nothing else. A command leaves FAULT as it was or leaves the old state with a fault
recorded for its own word; that word is the one executed, since an accepted word is the encoding of its command. Inside
the generation phase nothing writes FAULT but a reset event, which finds the chip present. -/

namespace Sys2Proof

/-! ### An accepted word is the encoding of its command -/

/-- The fields of a command's word that hold its operands. -/
def Instr.operandFields : Instr → List (Nat × Nat)
  | .nop | .creset | .rsinit | .stop => []
  | .wreg _ _ => [(8, 8), (0, 8)]
  | .chset _ _ _ => [(21, 3), (16, 3), (0, 8)]
  | .opset _ _ _ _ => [(21, 3), (19, 2), (16, 3), (0, 8)]
  | .keyon _ _ | .note _ _ => [(16, 3), (8, 4)]
  | .keyoff _ | .voice _ => [(16, 3)]
  | .gen _ => [(0, 24)]
  | .run _ | .play _ => [(0, 1)]

/-- A row asks for every bit of a word that is no operand bit. -/
theorem Instr.row_mask_or_operandFields (i : Instr) :
    i.row.mask ||| fieldsMask i.operandFields = BitVec.allOnes 32 := by
  cases i <;> simp only [Instr.row, Instr.operandFields] <;> decide

theorem ofBool_bField (w : Word) : BitVec.ofBool (bField w) = w.extractLsb' 0 1 := by
  apply BitVec.eq_of_getLsbD_eq
  intro j hj
  obtain rfl : j = 0 := by omega
  simp [bField]

/-- With the operands read from a word, the encoding is the opcode and that word's own operand bits. -/
theorem encode_readFrom (w : Word) (i : Instr) :
    encode (i.readFrom w) = opBits i.opcode ||| (w &&& fieldsMask i.operandFields) := by
  cases i <;>
    simp [encode, Instr.readFrom, Instr.opcode, Instr.operandFields, fieldsMask, BitVec.and_or_distrib_left,
      and_fieldMask, BitVec.or_assoc, ofBool_bField, addrField, valField, chField, selField, operatorField, maskField,
      nField]

/-- No bit of an accepted word is lost (spec/30_encoding.md R85). -/
theorem encode_of_decode {w : Word} {i : Instr} (accepted : decode w = .ok i) : encode i = w := by
  obtain ⟨selects, operands⟩ := decode_eq_ok_iff.1 accepted
  have matched : w &&& i.row.mask = i.row.mtch := by
    rw [OpcodeRow.selects, Bool.and_eq_true, beq_iff_eq] at selects
    exact selects.1
  calc encode i
      = opBits i.opcode ||| (w &&& fieldsMask i.operandFields) := by rw [← encode_readFrom, operands]
    _ = w &&& (i.row.mask ||| fieldsMask i.operandFields) := by
      rw [← i.row_mtch, ← matched, BitVec.and_or_distrib_left]
    _ = w := by rw [i.row_mask_or_operandFields, BitVec.and_allOnes]

end Sys2Proof

namespace Sys2Proof.Machine

/-! ### A command that faults -/

/-- The command of word `w`, run from `s` to `t`, has left FAULT as it was, or has done nothing but record a fault with
FINFO = `w` (spec/60_exceptions.md R192). -/
def FaultPrecise (w : Word) (s t : State) : Prop := t.fault = s.fault ∨ ∃ c a, t = s.recorded c w a

@[simp] theorem State.afterWrites_fault (s : State) (ws : List (Byte × Byte)) :
    (s.afterWrites ws).fault = s.fault := by
  rw [State.afterWrites_eq]
  rfl

theorem faultPrecise_raiseFault (s : State) (c : FaultCause) (w : Word) (a : Byte) :
    FaultPrecise w s (s.raiseFault c w a) :=
  .inr ⟨c, _, rfl⟩

theorem faultPrecise_regWrites (s : State) (w : Word) (ws : List (Byte × Byte)) :
    ∃ t, endCommand (s.regWrites w ws) = .next t ∧ FaultPrecise w s t := by
  rcases s.regWrites_cases w ws with ⟨-, passed⟩ | ⟨-, a, -, -, -, -, -, raised⟩
  · exact ⟨_, by rw [passed, endCommand_ok], .inl (s.afterWrites_fault ws)⟩
  · exact ⟨_, by rw [raised, endCommand_error], .inr ⟨.proto, a, rfl⟩⟩

theorem faultPrecise_singleWrite (s : State) (i : Instr) (a v : Byte) :
    ∃ t, singleWrite i a v s = .next t ∧ FaultPrecise (encode i) s t := by
  rw [singleWrite, State.regWrite_eq_regWrites]
  exact faultPrecise_regWrites s _ _

/-- A register write behind a check of its selector (spec/30_encoding.md R85). -/
theorem faultPrecise_checkedWrite (s : State) (i : Instr) (legal : Bool) (a v : Byte) :
    ∃ t, (if legal then singleWrite i a v s else illegalTerm i s) = .next t ∧ FaultPrecise (encode i) s t := by
  cases legal with
  | true => exact faultPrecise_singleWrite s i a v
  | false => exact ⟨_, rfl, faultPrecise_raiseFault s .illcmd (encode i) 0#8⟩

/-- The register writes are all or none; every other fault is raised before the command has done anything. -/
theorem exec_faultPrecise (i : Instr) (s : State) : ∃ t, exec i s = .next t ∧ FaultPrecise (encode i) s t := by
  cases i with
  | nop | creset | rsinit | play | stop => exact ⟨_, rfl, .inl rfl⟩
  | wreg | keyon | keyoff => exact faultPrecise_singleWrite s _ _ _
  | voice | note => exact faultPrecise_regWrites s _ _
  | chset | opset => exact faultPrecise_checkedWrite s _ _ _ _
  | gen n =>
    rw [exec, execGen]
    split_ifs
    · exact ⟨_, rfl, .inl rfl⟩
    · exact ⟨_, rfl, faultPrecise_raiseFault s _ _ _⟩
    · exact ⟨_, rfl, .inl rfl⟩
  | run b =>
    rw [exec, execRun]
    split_ifs
    · exact ⟨_, rfl, .inl rfl⟩
    · exact ⟨_, rfl, faultPrecise_raiseFault s _ _ _⟩
    · exact ⟨_, rfl, .inl rfl⟩
    · exact ⟨_, rfl, .inl rfl⟩

/-- Executing a word is as precise, ILLCMD included. -/
theorem execute_faultPrecise (w : Word) (s : State) : ∃ t, execute w s = .next t ∧ FaultPrecise w s t := by
  rcases execute_cases w s with ⟨i, accepted, runs⟩ | ⟨-, -, raises⟩
  · rw [runs, ← encode_of_decode accepted]
    exact exec_faultPrecise i s
  · exact ⟨_, raises, .inr ⟨.illcmd, 0#8, rfl⟩⟩

/-! ### FAULT in the generation phase -/

@[simp] theorem State.outputStep_fault (s : State) (chip : ChipSample) : (s.outputStep chip).fault = s.fault := by
  rw [State.outputStep_eq]
  rfl

@[simp] theorem State.outputStep_chipPresent (s : State) (chip : ChipSample) :
    (s.outputStep chip).chipPresent = s.chipPresent := by
  rw [State.outputStep_eq]
  rfl

@[simp] theorem State.takeSinkError_fault (s : State) : s.takeSinkError.fault = s.fault := by
  rw [State.takeSinkError]
  split <;> rfl

@[simp] theorem State.takeSinkDone_fault (s : State) : s.takeSinkDone.fault = s.fault := by
  rw [State.takeSinkDone]
  split <;> rfl

@[simp] theorem State.finishGen_fault (s : State) : s.finishGen.fault = s.fault := by
  rw [State.finishGen_eq]
  split <;> rfl

@[simp] theorem State.loopTest_fault (s : State) : s.loopTest.fault = s.fault := by
  rw [State.loopTest]
  split
  · exact s.finishGen_fault
  · rfl

/-- With the chip present no event raises a fault: the reset sequence raises NOCHIP only without it
(spec/60_exceptions.md R184). -/
theorem EventEffect.fault_eq_false {s t : State} (event : EventEffect s t) (present : s.chipPresent = true)
    (unfaulted : s.fault = false) : t.fault = false := by
  cases event with
  | none => exact unfaulted
  | hwreset | abort => simp [present]
  | sinkError => rw [State.takeSinkError_fault, unfaulted]
  | sinkDone => rw [State.takeSinkDone_fault, unfaulted]

/-- Where no fault is recorded the chip is present. -/
theorem State.RegInv.chipPresent_of_unfaulted {s : State} (inv : s.RegInv) (unfaulted : s.fault = false) :
    s.chipPresent = true := by
  by_contra absent
  obtain ⟨faulted, -, -⟩ := inv.absent (Bool.eq_false_iff.2 absent)
  rw [unfaulted] at faulted
  cases faulted

/-- A step inside GEN or RUN raises nothing: the rate was checked before the first output step
(spec/41_resampler.md R132, R133). -/
theorem State.RegInv.step_gen_fault {s t : State} (inv : s.RegInv) (gen : s.phase = .gen) (h : step s = .next t) :
    t.fault = false := by
  have unfaulted : s.fault = false := inv.running (by simp [gen])
  have present : s.chipPresent = true := inv.chipPresent_of_unfaulted unfaulted
  cases step_effect h with
  | events notGen => exact absurd gen notGen
  | served idle | write idle | command idle => simp [gen] at idle
  | finish => rw [State.finishGen_fault, unfaulted]
  | generate _ _ _ event =>
    rw [State.loopTest_fault]
    exact event.fault_eq_false (by simp [present]) (by simp [unfaulted])

end Sys2Proof.Machine

namespace Sys2Proof.Proofs

open Sys2Proof Sys2Proof.Machine

/-- Settles O7: the model's one fault entry is the record, and the codes are those of R181. -/
theorem faultEntryWritesOnlyTheRecord : Obligations.FaultEntryWritesOnlyTheRecord :=
  fun _ _ _ _ => ⟨rfl, rfl, rfl, rfl, rfl⟩

/-- Settles O8: a word that changes FAULT is one that only recorded a fault; in the generation phase the invariant gives
FAULT = 0 and, with it, the chip. -/
theorem faultsArePrecise : Obligations.FaultsArePrecise := by
  refine ⟨fun w s t unfaulted runs faulted => ?record, fun s t inv gen h => inv.step_gen_fault gen h⟩
  case record =>
    obtain ⟨u, executed, precise⟩ := execute_faultPrecise w s
    obtain rfl : u = t := by rw [runs] at executed; exact (Host.Outcome.next.inj executed).symm
    rcases precise with kept | recorded
    · rw [kept, unfaulted] at faulted
      cases faulted
    · exact recorded

end Sys2Proof.Proofs

/-! # Encoding, both ways (spec/30_encoding.md R84, R85)

A command's word has each operand in its field, so that a command whose word is accepted is read back from it; and an
accepted word has no selector past the legal ones. -/

namespace Sys2Proof

/-! ### More command words in arithmetic -/

theorem encode_keyon_toNat (ch : BitVec 3) (mask : BitVec 4) :
    (encode (.keyon ch mask)).toNat = 0x05000000 + ch.toNat * 2 ^ 16 + mask.toNat * 2 ^ 8 := by
  have op : (opBits 0x05#8).toNat = 0x05000000 := by decide
  have chPlaced := toNat_or_place op (lo := 16) (by decide) (by decide) ch
  exact toNat_or_place chPlaced (by decide) (by omega) mask

theorem encode_keyoff_toNat (ch : BitVec 3) : (encode (.keyoff ch)).toNat = 0x06000000 + ch.toNat * 2 ^ 16 :=
  toNat_or_place (x := opBits 0x06#8) (by decide) (by decide) (by decide) ch

theorem encode_note_toNat (ch : BitVec 3) (mask : BitVec 4) :
    (encode (.note ch mask)).toNat = 0x08000000 + ch.toNat * 2 ^ 16 + mask.toNat * 2 ^ 8 := by
  have op : (opBits 0x08#8).toNat = 0x08000000 := by decide
  have chPlaced := toNat_or_place op (lo := 16) (by decide) (by decide) ch
  exact toNat_or_place chPlaced (by decide) (by omega) mask

theorem encode_gen_toNat (n : BitVec 24) : (encode (.gen n)).toNat = 0x11000000 + n.toNat :=
  toNat_or_place_zero (x := opBits 0x11#8) (by decide) (by decide) (by decide) n

theorem encode_run_toNat (b : Bool) : (encode (.run b)).toNat = 0x12000000 + b.toNat := by
  have op : (opBits 0x12#8).toNat = 0x12000000 := by decide
  rw [← BitVec.toNat_ofBool b]
  exact toNat_or_place_zero op (by decide) (by decide) (BitVec.ofBool b)

/-! ### Operands read back from a command's word -/

/-- A field of a word, from the word's value. -/
theorem extractLsb'_eq_of_toNat {w : Word} {n lo k : Nat} {field : BitVec k} (value : w.toNat = n)
    (bits : n / 2 ^ lo % 2 ^ k = field.toNat) : w.extractLsb' lo k = field := by
  apply BitVec.eq_of_toNat_eq
  rw [BitVec.extractLsb'_toNat, Nat.shiftRight_eq_div_pow, value, bits]

theorem bField_eq_of_extractLsb' {w : Word} {b : Bool} (bit : w.extractLsb' 0 1 = BitVec.ofBool b) : bField w = b := by
  rw [← ofBool_bField] at bit
  revert bit
  cases bField w <;> cases b <;> decide

/-- Each operand stands in its own field, whole (spec/30_encoding.md R81, R82). -/
theorem Instr.readFrom_encode (i : Instr) : i.readFrom (encode i) = i := by
  cases i with
  | nop | creset | rsinit | stop => rfl
  | wreg addr val =>
    have value := encode_wreg_toNat addr val
    rw [readFrom, addrField, valField, extractLsb'_eq_of_toNat value (field := addr) (by omega),
      extractLsb'_eq_of_toNat value (field := val) (by omega)]
  | chset ch sel val =>
    have value := encode_chset_toNat ch sel val
    rw [readFrom, chField, selField, valField, extractLsb'_eq_of_toNat value (field := ch) (by omega),
      extractLsb'_eq_of_toNat value (field := sel) (by omega), extractLsb'_eq_of_toNat value (field := val) (by omega)]
  | opset ch op sel val =>
    have value := encode_opset_toNat ch op sel val
    rw [readFrom, chField, operatorField, selField, valField, extractLsb'_eq_of_toNat value (field := ch) (by omega),
      extractLsb'_eq_of_toNat value (field := op) (by omega), extractLsb'_eq_of_toNat value (field := sel) (by omega),
      extractLsb'_eq_of_toNat value (field := val) (by omega)]
  | keyon ch mask =>
    have value := encode_keyon_toNat ch mask
    rw [readFrom, chField, maskField, extractLsb'_eq_of_toNat value (field := ch) (by omega),
      extractLsb'_eq_of_toNat value (field := mask) (by omega)]
  | note ch mask =>
    have value := encode_note_toNat ch mask
    rw [readFrom, chField, maskField, extractLsb'_eq_of_toNat value (field := ch) (by omega),
      extractLsb'_eq_of_toNat value (field := mask) (by omega)]
  | keyoff ch => rw [readFrom, chField, extractLsb'_eq_of_toNat (encode_keyoff_toNat ch) (field := ch) (by omega)]
  | voice ch => rw [readFrom, chField, extractLsb'_eq_of_toNat (encode_voice_toNat ch) (field := ch) (by omega)]
  | gen n => rw [readFrom, nField, extractLsb'_eq_of_toNat (encode_gen_toNat n) (field := n) (by omega)]
  | run b =>
    rw [readFrom, bField_eq_of_extractLsb' (extractLsb'_eq_of_toNat (encode_run_toNat b) (field := .ofBool b) (by
      cases b <;> decide))]
  | play b =>
    rw [readFrom, bField_eq_of_extractLsb' (extractLsb'_eq_of_toNat (encode_play_toNat b) (field := .ofBool b) (by
      cases b <;> decide))]

/-- The word of a well-formed command selects the command's row (spec/30_encoding.md R84). -/
theorem Instr.row_selects_encode (i : Instr) : Laws.EncodingRow.Statement i := by
  cases i with
  | nop => exact Laws.EncodingRow.nop
  | creset => exact Laws.EncodingRow.creset
  | wreg addr val => exact Laws.EncodingRow.wreg addr val
  | chset ch sel val => exact Laws.EncodingRow.chset ch sel val
  | opset ch op sel val => exact Laws.EncodingRow.opset ch op sel val
  | keyon ch mask => exact Laws.EncodingRow.keyon ch mask
  | keyoff ch => exact Laws.EncodingRow.keyoff ch
  | voice ch => exact Laws.EncodingRow.voice ch
  | note ch mask => exact Laws.EncodingRow.note ch mask
  | rsinit => exact Laws.EncodingRow.rsinit
  | gen n => exact Laws.EncodingRow.gen n
  | run b => exact Laws.EncodingRow.run b
  | play b => exact Laws.EncodingRow.play b
  | stop => exact Laws.EncodingRow.stop

theorem decode_encode {i : Instr} (legal : i.wellFormed = true) : decode (encode i) = .ok i :=
  decode_eq_ok_iff.2 ⟨i.row_selects_encode legal, i.readFrom_encode⟩

/-! ### What an accepted word is read as -/

/-- Bit 23 of CHSET's word is a must-be-zero bit and OPSET's selector an extra constraint; nothing else can be
ill-formed (spec/30_encoding.md R84, R85). -/
theorem wellFormed_of_decode {w : Word} {i : Instr} (accepted : decode w = .ok i) : i.wellFormed = true := by
  obtain ⟨selects, operands⟩ := decode_eq_ok_iff.1 accepted
  obtain ⟨-, zeros, selector⟩ := (i.row_selects_iff w).1 selects
  cases i with
  | chset ch sel val =>
    obtain ⟨-, rfl, -⟩ := Instr.chset.inj operands
    refine decide_eq_true (not_lt.1 fun past => ?_)
    exact bit23_ne_zero_of_selector past (zeros (23, 1) (by simp [Instr.zeroFields]))
  | opset ch op sel val =>
    obtain ⟨-, -, rfl, -⟩ := Instr.opset.inj operands
    exact selector rfl
  | _ => rfl

end Sys2Proof

namespace Sys2Proof.Proofs

open Sys2Proof Sys2Proof.Machine

/-- Settles O1: the command's word selects the command's row, and the operands are read back from their fields. -/
theorem decodeUndoesEncode : Obligations.DecodeUndoesEncode := fun _ => decode_encode

/-- Settles O2: an accepted word matches the row's fixed bits, and its other bits are the operands. -/
theorem encodeUndoesDecode : Obligations.EncodeUndoesDecode :=
  fun _ _ accepted => ⟨encode_of_decode accepted, wellFormed_of_decode accepted⟩

/-- Settles O4: fourteen evaluations of the decoder. -/
theorem sampleWordsDecode : Obligations.SampleWordsDecode := by
  unfold Obligations.SampleWordsDecode
  decide

/-- Settles O15: past the legal selectors both operations raise ILLCMD for the encoding. -/
theorem illFormedTermsRaiseIllcmd : Obligations.IllFormedTermsRaiseIllcmd := by
  refine ⟨fun ch sel v s past => ?chset, fun ch op sel v s past => ?opset⟩
  case chset =>
    have illegal : chSelOk sel = false := decide_eq_false (by omega)
    rw [exec, execChset, illegal]
    rfl
  case opset =>
    have illegal : opSelOk sel = false := decide_eq_false (by omega)
    rw [exec, execOpset, illegal]
    rfl

end Sys2Proof.Proofs

/-! # The registers' invariant (spec/10_state.md R43 (I-a) to (I-c))

It holds at power-on, and each kind of effect a step can have keeps it: the reset events set it up anew, a command is
accepted in IDLE without a fault only, and inside the generation phase the output step keeps ACC below its bound and the
test of the loop leaves the phase with REMAIN = 0. -/

namespace Sys2Proof.Machine

/-! ### Reset -/

theorem State.powerOn_regInv (present : Bool) (shift : KonShift) : (State.powerOn present shift).RegInv := by
  cases present <;> constructor <;> simp [State.powerOn, Config.nominalOutRate]

theorem State.resetSequence_regInv (s : State) (b : Bool) : (s.resetSequence b).RegInv := by
  rw [State.resetSequence_eq]
  exact { State.powerOn_regInv s.chipPresent s.konShift with }

section
variable {s t : State}

/-! ### The sink's events -/

theorem State.takeSinkError_of_gen (gen : s.phase = .gen) : s.takeSinkError =
    { s with sinkErr := true, remain := 0#40, playAfter := false, playBlk := false, phase := .idle,
             outHistory := s.outHistory ++ [.discard] } := by
  rw [State.takeSinkError, gen]
  rfl

theorem State.takeSinkError_of_ne_gen (notGen : s.phase ≠ .gen) :
    s.takeSinkError = { s with sinkErr := true, phase := .idle } := by
  cases h : s.phase with
  | idle => simp [State.takeSinkError, h]
  | gen => exact absurd h notGen
  | waitSink => rw [State.takeSinkError, h]

theorem State.takeSinkDone_of_waitSink (wait : s.phase = .waitSink) : s.takeSinkDone = { s with phase := .idle } := by
  rw [State.takeSinkDone, wait]

theorem State.takeSinkDone_of_ne_waitSink (noWait : s.phase ≠ .waitSink) : s.takeSinkDone = s := by
  cases h : s.phase with
  | idle | gen => rw [State.takeSinkDone, h]
  | waitSink => exact absurd h noWait

/-- The block may leave a wait, or stay in IDLE, at any time. -/
theorem State.RegInv.toIdle (inv : s.RegInv) (notGen : s.phase ≠ .gen) : State.RegInv { s with phase := .idle } :=
  { inv with
    sequencing := fun _ => inv.sequencing notGen
    generating := fun gen => by simp at gen
    running := fun busy => by simp at busy }

/-- Outside the generation phase the events keep the invariant. -/
theorem EventEffect.regInv (event : EventEffect s t) (inv : s.RegInv) (notGen : s.phase ≠ .gen) : t.RegInv := by
  cases event with
  | none => exact inv
  | hwreset | abort => exact State.resetSequence_regInv _ _
  | sinkError =>
    rw [State.takeSinkError_of_ne_gen notGen]
    exact { inv.toIdle notGen with }
  | sinkDone =>
    by_cases wait : s.phase = .waitSink
    · rw [State.takeSinkDone_of_waitSink wait]
      exact inv.toIdle notGen
    · rwa [State.takeSinkDone_of_ne_waitSink wait]

/-! ### Register writes and commands -/

/-- A register write leaves ACC and OUTRATE alone, or sets the one and clears the other (spec/20_memory.md R53). -/
theorem WriteEffect.regInv (write : WriteEffect s t) (inv : s.RegInv) (idle : s.phase = .idle) : t.RegInv := by
  cases write with
  | ignored | ctrl | status | clkFreq | duration | vcfg => exact { inv with }
  | outRate rate =>
    have positive : rate ≠ 0#24 → 0 < rate.toNat := fun nonzero =>
      Nat.pos_of_ne_zero fun zero => nonzero (BitVec.eq_of_toNat_eq zero)
    exact { inv with
      accBound := fun nonzero => Nat.mul_pos (by decide) (positive nonzero)
      accZero := fun _ => rfl
      generating := fun gen => by simp [idle] at gen }

/-- A command that is accepted finds IDLE and no fault, so the chip is there. -/
theorem CommandEffect.regInv (command : CommandEffect s t) (inv : s.RegInv) (idle : s.phase = .idle)
    (unfaulted : s.fault = false) : t.RegInv := by
  have present := inv.chipPresent_of_unfaulted unfaulted
  have stopped := inv.sequencing (by simp [idle])
  cases command with
  | none => exact inv
  | writes ws =>
    rw [State.afterWrites_eq]
    exact { inv with }
  | fault c w a notNochip fregProto =>
    exact { inv with
      sequencing := fun _ => stopped
      generating := fun gen => by simp [State.recorded] at gen
      running := fun busy => by simp [State.recorded] at busy
      noRecord := fun none => by simp [State.recorded] at none
      record := fun _ => ⟨by simp [State.recorded], fun other => fregProto (by simpa [State.recorded] using other)⟩
      absent := fun absent => by simp [State.recorded, present] at absent
      present := fun _ => by simpa [State.recorded] using notNochip }
  | chipReset => exact { inv with }
  | clear =>
    exact { inv with
      accBound := fun rate => Nat.zero_lt_of_lt (inv.accBound rate)
      accZero := fun _ => rfl }
  | generate n x y count rate blocking =>
    exact { inv with
      sequencing := fun notGen => by simp at notGen
      generating := fun _ => ⟨count, rate, blocking⟩
      running := fun _ => unfaulted }
  | handOff b =>
    exact { inv with
      sequencing := fun _ => stopped
      generating := fun gen => by cases b <;> simp [State.handOff] at gen
      running := fun _ => unfaulted }
  | stop => exact { inv with }

/-! ### The generation phase -/

/-- The remainder is below the divisor (spec/41_resampler.md R145). -/
theorem State.RegInv.outputStep (inv : s.RegInv) (rate : s.outRate ≠ 0#24) (chip : ChipSample) :
    (s.outputStep chip).RegInv := by
  have bound : s.nextAcc.toNat < 64 * s.outRate.toNat := by
    rw [State.nextAcc_toNat rate, ← State.den_eq]
    exact Nat.mod_lt _ (Nat.lt_of_lt_of_le (by decide) (State.le_den rate))
  rw [State.outputStep_eq]
  exact { inv with
    accBound := fun _ => bound
    accZero := fun zero => absurd zero rate }

/-- Left with REMAIN = 0, the phase ends in IDLE or in the wait with the sequencing state clear. -/
theorem State.RegInv.finishGen (inv : s.RegInv) (gen : s.phase = .gen) :
    State.RegInv (State.finishGen { s with remain := 0#40 }) := by
  have unfaulted : s.fault = false := inv.running (by simp [gen])
  obtain ⟨-, -, blocking⟩ := inv.generating gen
  rw [State.finishGen_eq]
  split
  · exact { inv with
      sequencing := fun _ => ⟨rfl, rfl, rfl⟩
      generating := fun gen => by cases h : s.playBlk <;> simp [h] at gen
      running := fun _ => unfaulted }
  · next noPlay =>
    have noPlay : s.playAfter = false := Bool.eq_false_iff.2 noPlay
    exact { inv with
      sequencing := fun _ => ⟨rfl, noPlay, blocking noPlay⟩
      generating := fun gen => by simp at gen
      running := fun busy => by simp at busy }

theorem State.loopTest_of_ne_gen (notGen : s.phase ≠ .gen) : s.loopTest = s := if_neg fun h => notGen h.1

theorem State.loopTest_of_remain_ne_zero (more : s.remain ≠ 0#40) : s.loopTest = s := if_neg fun h => more h.2

theorem State.loopTest_of_remain_eq_zero (gen : s.phase = .gen) (ended : s.remain = 0#40) : s.loopTest = s.finishGen :=
  if_pos ⟨gen, ended⟩

/-- Whatever REMAIN has come to, the test of the loop restores the invariant. -/
theorem State.RegInv.loopTest (inv : s.RegInv) (gen : s.phase = .gen) (n : BitVec 40) :
    State.RegInv (State.loopTest { s with remain := n }) := by
  obtain ⟨-, rate, blocking⟩ := inv.generating gen
  by_cases ended : n = 0#40
  · rw [State.loopTest_of_remain_eq_zero (s := { s with remain := n }) gen ended, ended]
    exact inv.finishGen gen
  · rw [State.loopTest_of_remain_ne_zero (s := { s with remain := n }) ended]
    exact { inv with
      sequencing := fun notGen => absurd gen notGen
      generating := fun _ => ⟨ended, rate, blocking⟩ }

/-- The events after an output step: a reset event or a sink_error ends the phase, and else the loop is tested. -/
theorem EventEffect.regInv_loopTest {n : BitVec 40} (event : EventEffect { s with remain := n } t) (inv : s.RegInv)
    (gen : s.phase = .gen) : t.loopTest.RegInv := by
  cases event with
  | none => exact inv.loopTest gen n
  | hwreset | abort =>
    rw [State.loopTest_of_ne_gen (by simp)]
    exact State.resetSequence_regInv _ _
  | sinkError =>
    rw [State.takeSinkError_of_gen (s := { s with remain := n }) gen, State.loopTest_of_ne_gen (by simp)]
    exact { inv with
      sequencing := fun _ => ⟨rfl, rfl, rfl⟩
      generating := fun gen => by simp at gen
      running := fun busy => by simp at busy }
  | sinkDone =>
    rw [State.takeSinkDone_of_ne_waitSink (s := { s with remain := n }) (by simp [gen])]
    exact inv.loopTest gen n

/-! ### Every step -/

theorem StepEffect.regInv {chip : ChipSample} (effect : StepEffect chip s t) (inv : s.RegInv) : t.RegInv := by
  cases effect with
  | events notGen event => exact event.regInv { inv with } notGen
  | served => exact { inv with }
  | write idle _ bus write => exact write.regInv { inv with } idle
  | command idle unfaulted bus command => exact command.regInv { inv with } idle unfaulted
  | finish gen ended => exact absurd ended (inv.generating gen).1
  | generate gen _ rate event =>
    have stepped := inv.outputStep rate chip
    have stillGen : (s.outputStep chip).phase = .gen := by rw [State.outputStep_eq]; exact gen
    exact event.regInv_loopTest (s := (s.outputStep chip).passPoint) { stepped with } stillGen

end

end Sys2Proof.Machine

namespace Sys2Proof.Proofs

open Sys2Proof Sys2Proof.Machine

/-- Settles O42: each kind of effect a step can have keeps the invariant. -/
theorem stepsKeepTheRegisterInvariant : Obligations.StepsKeepTheRegisterInvariant :=
  fun _ _ inv h => (step_effect h).regInv inv

end Sys2Proof.Proofs

/-! # The histories (spec/10_state.md R39, R40, R43 (I-d); spec/42_normalizer_sink.md R167)

What one step appends to the output history and to the chip history, each said once. From it: the histories only grow;
every sample is one the normalizer made; the chip history is made of whole address-data pairs, the ChipState, KEYED and
WRITTEN are what it says, and in strict mode it respects the protocol. -/

namespace Sys2Proof.Machine

section
variable {s t : State} {chip : ChipSample}

/-! ### What moves the sequencing state alone -/

/-- Nothing has changed but SINKERR, the sequencing state and the output history, to which events that are no samples
have been appended: what an event of the sink does, and the end of the generation loop. -/
def State.Sequenced (s t : State) : Prop :=
  ∃ es : List OutEvent, (∀ e ∈ es, e.isSample = false) ∧ t = { s with
    sinkErr := t.sinkErr, phase := t.phase, remain := t.remain, playAfter := t.playAfter, playBlk := t.playBlk
    outHistory := s.outHistory ++ es }

theorem State.takeSinkError_sequenced (s : State) : s.Sequenced s.takeSinkError := by
  by_cases gen : s.phase = .gen
  · rw [State.takeSinkError_of_gen gen]
    exact ⟨[.discard], by simp [OutEvent.isSample], rfl⟩
  · rw [State.takeSinkError_of_ne_gen gen]
    exact ⟨[], by simp, by simp⟩

theorem State.takeSinkDone_sequenced (s : State) : s.Sequenced s.takeSinkDone := by
  by_cases wait : s.phase = .waitSink
  · rw [State.takeSinkDone_of_waitSink wait]
    exact ⟨[], by simp, by simp⟩
  · rw [State.takeSinkDone_of_ne_waitSink wait]
    exact ⟨[], by simp, by simp⟩

theorem State.finishGen_sequenced (s : State) : s.Sequenced s.finishGen := by
  rw [State.finishGen_eq]
  split
  · exact ⟨[.play s.outRate s.playBlk], by simp [OutEvent.isSample], rfl⟩
  · exact ⟨[], by simp, by simp⟩

theorem State.loopTest_sequenced (s : State) : s.Sequenced s.loopTest := by
  rw [State.loopTest]
  split
  · exact s.finishGen_sequenced
  · exact ⟨[], by simp, by simp⟩

/-- The events at a taking point move the sequencing state alone, or end in the reset sequence. -/
theorem EventEffect.sequenced_or_reset (event : EventEffect s t) : s.Sequenced t ∨
    ∃ (es : List OutEvent) (b : Bool), (∀ e ∈ es, e.isSample = false) ∧
      t = State.resetSequence { s with outHistory := s.outHistory ++ es } b := by
  cases event with
  | none => exact .inl ⟨[], by simp, by simp⟩
  | hwreset => exact .inr ⟨[], false, by simp, by simp⟩
  | abort => exact .inr ⟨[.stop, .discard], true, by simp [OutEvent.isSample], by simp [State.emit]⟩
  | sinkError => exact .inl s.takeSinkError_sequenced
  | sinkDone => exact .inl s.takeSinkDone_sequenced

/-! ### What a step emits -/

/-- The events a step leaves in the output history: in the generation phase perhaps one normalized sample, then events
that are no samples. -/
inductive Emits (s t : State) : Prop where
  | others (es : List OutEvent) (noSample : ∀ e ∈ es, e.isSample = false)
      (history : t.outHistory = s.outHistory ++ es) : Emits s t
  | sample (gen : s.phase = .gen) (l r : Word) (es : List OutEvent) (noSample : ∀ e ∈ es, e.isSample = false)
      (history : t.outHistory = s.outHistory ++ .sample (norm l) (norm r) :: es) : Emits s t

theorem Emits.nothing (history : t.outHistory = s.outHistory) : Emits s t :=
  .others [] (by simp) (by simp [history])

/-- A step's later part emits further events that are no samples. -/
theorem Emits.append {u : State} (emits : Emits s t) {es : List OutEvent} (noSample : ∀ e ∈ es, e.isSample = false)
    (history : u.outHistory = t.outHistory ++ es) : Emits s u := by
  cases emits with
  | others fs before emitted =>
    refine .others (fs ++ es) (List.forall_mem_append.2 ⟨before, noSample⟩) ?_
    rw [history, emitted, List.append_assoc]
  | sample gen l r fs before emitted =>
    refine .sample gen l r (fs ++ es) (List.forall_mem_append.2 ⟨before, noSample⟩) ?_
    rw [history, emitted, List.append_assoc, List.cons_append]

theorem State.Sequenced.outHistory (moved : s.Sequenced t) :
    ∃ es, (∀ e ∈ es, e.isSample = false) ∧ t.outHistory = s.outHistory ++ es := by
  obtain ⟨es, noSample, frame⟩ := moved
  exact ⟨es, noSample, by rw [frame]⟩

theorem EventEffect.outHistory (event : EventEffect s t) :
    ∃ es, (∀ e ∈ es, e.isSample = false) ∧ t.outHistory = s.outHistory ++ es := by
  rcases event.sequenced_or_reset with moved | ⟨es, b, noSample, rfl⟩
  · exact moved.outHistory
  · exact ⟨es, noSample, State.resetSequence_outHistory _ b⟩

theorem WriteEffect.outHistory (write : WriteEffect s t) : t.outHistory = s.outHistory := by cases write <;> rfl

theorem CommandEffect.outHistory (command : CommandEffect s t) :
    ∃ es, (∀ e ∈ es, e.isSample = false) ∧ t.outHistory = s.outHistory ++ es := by
  cases command with
  | none | chipReset | fault | clear | generate => exact ⟨[], by simp, by simp [State.recorded]⟩
  | writes ws =>
    rw [State.afterWrites_eq]
    exact ⟨[], by simp, by simp [State.issued]⟩
  | handOff b => exact ⟨[.play s.outRate b], by simp [OutEvent.isSample], rfl⟩
  | stop => exact ⟨[.stop], by simp [OutEvent.isSample], rfl⟩

theorem StepEffect.emits (effect : StepEffect chip s t) : Emits s t := by
  cases effect with
  | events _ event =>
    obtain ⟨es, noSample, history⟩ := event.outHistory
    exact .others es noSample history
  | served => exact .nothing rfl
  | write _ _ _ write => exact .nothing write.outHistory
  | command _ _ _ command =>
    obtain ⟨es, noSample, history⟩ := command.outHistory
    exact .others es noSample history
  | finish =>
    obtain ⟨es, noSample, history⟩ := s.finishGen_sequenced.outHistory
    exact .others es noSample history
  | @generate gen _ _ u event =>
    obtain ⟨es, noSample, history⟩ := event.outHistory
    obtain ⟨fs, noSample', history'⟩ := u.loopTest_sequenced.outHistory
    have stepped : Emits s (s.outputStep chip) :=
      .sample gen _ _ [] (by simp) (by rw [State.outputStep_issues_and_emits])
    exact (stepped.append noSample (u := u) history).append noSample' history'

/-! ### What a step has the chip do -/

/-- From s to t the chip has run n native cycles, inside the generation phase, and nothing else about it has changed. -/
structure Clocked (n : Nat) (s t : State) : Prop where
  inGen : n = 0 ∨ s.phase = .gen
  present : t.chipPresent = s.chipPresent
  chip : t.chip = s.chip ++ List.replicate n .clock
  history : t.chipHistory = s.chipHistory ++ List.replicate n (.op .clock)
  keyed : t.keyed = s.keyed
  written : t.written = s.written

/-- The transactions a step leaves in the chip history, and what they do to the chip and the tracking bits: native
cycles, perhaps with a reset after them, which without the chip is no transaction; or the address-data pairs of register
writes that pass their checks. -/
inductive Issues (s t : State) : List ChipTx → Prop where
  | clocks (n : Nat) (clocked : Clocked n s t) : Issues s t (List.replicate n (.op .clock))
  | reset (n : Nat) {u : State} (clocked : Clocked n s u) (there : s.chipPresent = true ∨ s.fault = false)
      (chip : t.chip = []) (history : t.chipHistory = u.chipHistory ++ [.reset])
      (keyed : t.keyed = 0#8) (written : t.written = 0#224) : Issues s t (List.replicate n (.op .clock) ++ [.reset])
  | absent (n : Nat) {u : State} (clocked : Clocked n s u) (noChip : s.chipPresent = false)
      (history : t.chipHistory = u.chipHistory)
      (keyed : t.keyed = 0#8) (written : t.written = 0#224) : Issues s t (List.replicate n (.op .clock))
  | writes (unfaulted : s.fault = false) (ws : List (Byte × Byte)) (passes : s.WritesPass ws)
      (chip : t.chip = s.chip ++ pairOps ws) (history : t.chipHistory = s.chipHistory ++ (pairOps ws).map .op)
      (keyed : t.keyed = ws.foldl (fun b p => trackKeyed s.konShift b p.1 p.2) s.keyed)
      (written : t.written = ws.foldl (fun b p => trackWritten b p.1) s.written) : Issues s t ((pairOps ws).map .op)

theorem Issues.chipHistory {txs : List ChipTx} (issues : Issues s t txs) : t.chipHistory = s.chipHistory ++ txs := by
  cases issues with
  | clocks n clocked => exact clocked.history
  | reset n clocked _ _ history => rw [history, clocked.history, List.append_assoc]
  | absent n clocked _ history => rw [history, clocked.history]
  | writes _ _ _ _ history => exact history

/-- No native cycle and nothing else. -/
theorem Clocked.zero (present : t.chipPresent = s.chipPresent) (chip : t.chip = s.chip)
    (history : t.chipHistory = s.chipHistory) (keyed : t.keyed = s.keyed) (written : t.written = s.written) :
    Clocked 0 s t :=
  ⟨.inl rfl, present, by simp [chip], by simp [history], keyed, written⟩

theorem State.outputStep_clocked (gen : s.phase = .gen) (chip : ChipSample) :
    Clocked s.nativeCycles s (s.outputStep chip) := by
  rw [State.outputStep_issues_and_emits, chipAfterClocks_eq]
  exact ⟨.inr gen, rfl, rfl, rfl, rfl, rfl⟩

/-- The reset sequence after n native cycles. -/
theorem Issues.resetSequence {n : Nat} {u : State} (clocked : Clocked n s u) (b : Bool) :
    ∃ txs, Issues s (u.resetSequence b) txs := by
  cases h : s.chipPresent with
  | true => exact ⟨_, .reset n clocked (.inl h) (by simp [clocked.present, h]) (by simp [clocked.present, h])
      (by simp) (by simp)⟩
  | false => exact ⟨_, .absent n clocked h (by simp [clocked.present, h]) (by simp) (by simp)⟩

theorem State.Sequenced.clocked (moved : s.Sequenced t) : Clocked 0 s t := by
  obtain ⟨es, -, frame⟩ := moved
  rw [frame]
  exact .zero rfl rfl rfl rfl rfl

theorem WriteEffect.clocked (write : WriteEffect s t) : Clocked 0 s t := by
  cases write <;> exact .zero rfl rfl rfl rfl rfl

theorem CommandEffect.issues (command : CommandEffect s t) (unfaulted : s.fault = false) :
    ∃ txs, Issues s t txs := by
  cases command with
  | none | fault | clear | generate | handOff | stop => exact ⟨_, .clocks 0 (.zero rfl rfl rfl rfl rfl)⟩
  | writes ws passes =>
    rw [State.afterWrites_eq]
    exact ⟨_, .writes unfaulted ws passes (by simp [State.issued]) rfl rfl rfl⟩
  | chipReset => exact ⟨_, .reset 0 (u := s) (.zero rfl rfl rfl rfl rfl) (.inr unfaulted) rfl rfl rfl rfl⟩

/-- What comes after the last transaction of a step leaves the chip alone. -/
theorem Issues.trans_zero {u : State} {txs : List ChipTx} (issues : Issues s t txs) (idle : Clocked 0 t u) :
    Issues s u txs := by
  have chip := idle.chip
  have history := idle.history
  rw [List.replicate_zero, List.append_nil] at chip history
  cases issues with
  | clocks n clocked =>
    exact .clocks n ⟨clocked.inGen, idle.present.trans clocked.present, chip.trans clocked.chip,
      history.trans clocked.history, idle.keyed.trans clocked.keyed, idle.written.trans clocked.written⟩
  | reset n clocked there chip' history' keyed written =>
    exact .reset n clocked there (chip.trans chip') (history.trans history') (idle.keyed.trans keyed)
      (idle.written.trans written)
  | absent n clocked noChip history' keyed written =>
    exact .absent n clocked noChip (history.trans history') (idle.keyed.trans keyed) (idle.written.trans written)
  | writes unfaulted ws passes chip' history' keyed written =>
    exact .writes unfaulted ws passes (chip.trans chip') (history.trans history') (idle.keyed.trans keyed)
      (idle.written.trans written)

theorem EventEffect.issues {n : Nat} {u : State} (event : EventEffect u t) (clocked : Clocked n s u) :
    ∃ txs, Issues s t txs := by
  rcases event.sequenced_or_reset with moved | ⟨es, b, -, rfl⟩
  · exact ⟨_, (Issues.clocks n clocked).trans_zero moved.clocked⟩
  · exact Issues.resetSequence (u := { u with outHistory := u.outHistory ++ es }) { clocked with } b

/-- Whether writes pass does not depend on the host's side. -/
theorem State.WritesPass.of_host {bus : List HostAccess} {ar : List Arrivals} {ws : List (Byte × Byte)}
    (passes : State.WritesPass { s with bus := bus, arrivals := ar } ws) : s.WritesPass ws := by
  intro done a v rest decomposed
  have passed := passes done a v rest decomposed
  rw [State.afterWrites_eq] at passed ⊢
  exact passed

/-- Nor does what is issued. -/
theorem Issues.of_host {bus : List HostAccess} {ar : List Arrivals} {txs : List ChipTx}
    (issues : Issues { s with bus := bus, arrivals := ar } t txs) : Issues s t txs := by
  cases issues with
  | clocks n clocked => exact .clocks n { clocked with }
  | reset n clocked there chip history keyed written =>
    exact .reset n { clocked with } there chip history keyed written
  | absent n clocked noChip history keyed written => exact .absent n { clocked with } noChip history keyed written
  | writes unfaulted ws passes chip history keyed written =>
    exact .writes (s := s) unfaulted ws passes.of_host chip history keyed written

theorem StepEffect.issues (effect : StepEffect chip s t) : ∃ txs, Issues s t txs := by
  cases effect with
  | events _ event => exact event.issues (.zero rfl rfl rfl rfl rfl)
  | served => exact ⟨_, .clocks 0 (.zero rfl rfl rfl rfl rfl)⟩
  | write _ _ _ write => exact ⟨_, .clocks 0 { write.clocked with inGen := .inl rfl }⟩
  | command _ unfaulted bus command =>
    obtain ⟨txs, issues⟩ := command.issues unfaulted
    exact ⟨txs, issues.of_host (s := s)⟩
  | finish => exact ⟨_, .clocks 0 s.finishGen_sequenced.clocked⟩
  | @generate gen _ _ u event =>
    obtain ⟨txs, issues⟩ := event.issues (s := s) { State.outputStep_clocked gen chip with }
    exact ⟨txs, issues.trans_zero u.loopTest_sequenced.clocked⟩

/-! ### What no step changes -/

/-- The strap and KON_SHIFT are constant, and the host's answers are only appended to. -/
structure Steady (s t : State) : Prop where
  present : t.chipPresent = s.chipPresent
  shift : t.konShift = s.konShift
  responses : s.responses <+: t.responses

theorem Steady.trans {u : State} (first : Steady s t) (second : Steady t u) : Steady s u :=
  ⟨second.present.trans first.present, second.shift.trans first.shift, first.responses.trans second.responses⟩

theorem State.Sequenced.steady (moved : s.Sequenced t) : Steady s t := by
  obtain ⟨es, -, frame⟩ := moved
  rw [frame]
  exact ⟨rfl, rfl, List.prefix_rfl⟩

theorem EventEffect.steady (event : EventEffect s t) : Steady s t := by
  rcases event.sequenced_or_reset with moved | ⟨es, b, -, rfl⟩
  · exact moved.steady
  · exact ⟨by simp, by simp, by simp⟩

theorem WriteEffect.steady (write : WriteEffect s t) : Steady s t := by
  cases write <;> exact ⟨rfl, rfl, List.prefix_rfl⟩

theorem CommandEffect.steady (command : CommandEffect s t) : Steady s t := by
  cases command with
  | none | fault | chipReset | clear | generate | handOff | stop => exact ⟨rfl, rfl, List.prefix_rfl⟩
  | writes ws =>
    rw [State.afterWrites_eq]
    exact ⟨rfl, rfl, List.prefix_rfl⟩

theorem State.outputStep_steady (s : State) (chip : ChipSample) : Steady s (s.outputStep chip) := by
  rw [State.outputStep_eq]
  exact ⟨rfl, rfl, List.prefix_rfl⟩

theorem StepEffect.steady (effect : StepEffect chip s t) : Steady s t := by
  cases effect with
  | events _ event => exact { event.steady with }
  | served _ bus rs => exact ⟨rfl, rfl, List.prefix_append _ rs⟩
  | write _ _ _ write => exact { write.steady with }
  | command _ _ _ command => exact { command.steady with }
  | finish => exact s.finishGen_sequenced.steady
  | @generate _ _ _ u event =>
    exact (s.outputStep_steady chip).trans ({ event.steady with } : Steady (s.outputStep chip) u) |>.trans
      u.loopTest_sequenced.steady

/-! ### Whole pairs and the ChipState -/

theorem portPairs_append {xs : List ChipTx} (pairs : portPairs xs = true) (ys : List ChipTx) :
    portPairs (xs ++ ys) = portPairs ys := by
  fun_induction portPairs xs with
  | case1 => rfl
  | case2 rest ih | case3 rest ih => exact ih pairs
  | case4 p a q v rest ih =>
    obtain ⟨ports, wholeRest⟩ := Bool.and_eq_true_iff.1 pairs
    rw [← ih wholeRest, List.cons_append, List.cons_append, portPairs, ports, Bool.true_and]
  | case5 => cases pairs

theorem portPairs_clocks (n : Nat) : portPairs (List.replicate n (.op .clock)) = true := by
  induction n with
  | zero => rfl
  | succ n ih => rwa [List.replicate_succ, portPairs]

theorem portPairs_pairOps (ws : List (Byte × Byte)) : portPairs ((pairOps ws).map .op) = true := by
  induction ws with
  | nil => rfl
  | cons p rest ih => simpa [pairOps, portPairs] using ih

theorem Issues.portPairs_eq_true {txs : List ChipTx} (issues : Issues s t txs) : portPairs txs = true := by
  cases issues with
  | clocks n | absent n => exact portPairs_clocks n
  | reset n => exact portPairs_append (portPairs_clocks n) [.reset]
  | writes _ ws => exact portPairs_pairOps ws

/-- Operations after a history are applied to the chip it leads to. -/
theorem chipOf_append_ops (history : List ChipTx) (ops : List ChipOp) :
    chipOf (history ++ ops.map .op) = chipOf history ++ ops := by
  rw [chipOf, List.foldl_append, List.foldl_map]
  exact foldl_chipApply ops (chipOf history)

theorem chipOf_append_reset (history : List ChipTx) : chipOf (history ++ [.reset]) = [] := by
  rw [chipOf, List.foldl_append]
  rfl

theorem Issues.chip_eq_chipOf {txs : List ChipTx} (issues : Issues s t txs) (present : s.chipPresent = true)
    (chipIs : s.chip = chipOf s.chipHistory) : t.chip = chipOf t.chipHistory := by
  rw [issues.chipHistory]
  cases issues with
  | clocks n clocked => rw [clocked.chip, chipIs, ← List.map_replicate, chipOf_append_ops]
  | reset n _ _ chip => rw [chip, ← List.append_assoc, chipOf_append_reset]
  | absent _ _ noChip => simp [present] at noChip
  | writes _ ws _ chip => rw [chip, chipIs, chipOf_append_ops]

/-! ### The tracker of the chip's port -/

theorem Tracker.run_append (shift : KonShift) (tr : Tracker) (xs ys : List ChipTx) :
    tr.run shift (xs ++ ys) = (tr.run shift xs).run shift ys := List.foldl_append

theorem Tracker.run_clocks (shift : KonShift) (tr : Tracker) (n : Nat) :
    tr.run shift (List.replicate n (.op .clock)) = tr := by
  induction n with
  | zero => rfl
  | succ n ih => exact ih

/-- An address-data pair is tracked as `RegWrite` tracks it, and checked against the bits before it. -/
theorem Tracker.run_pair (shift : KonShift) (tr : Tracker) (a v : Byte) (rest : List (Byte × Byte)) :
    tr.run shift ((pairOps ((a, v) :: rest)).map .op) =
      Tracker.run shift ⟨a, trackKeyed shift tr.keyed a v, trackWritten tr.written a,
        tr.clean && !breaksProtocol shift tr.keyed tr.written a v⟩ ((pairOps rest).map .op) := rfl

theorem Tracker.run_pairs_tracks (shift : KonShift) (tr : Tracker) (ws : List (Byte × Byte)) :
    (tr.run shift ((pairOps ws).map .op)).keyed = ws.foldl (fun b p => trackKeyed shift b p.1 p.2) tr.keyed ∧
      (tr.run shift ((pairOps ws).map .op)).written = ws.foldl (fun b p => trackWritten b p.1) tr.written := by
  induction ws generalizing tr with
  | nil => exact ⟨rfl, rfl⟩
  | cons p rest ih =>
    rw [Tracker.run_pair]
    exact ih _

/-- A tracker that knows KEYED and WRITTEN knows them after the step. -/
theorem Issues.tracks {txs : List ChipTx} (issues : Issues s t txs) (present : s.chipPresent = true) {tr : Tracker}
    (keyedIs : s.keyed = tr.keyed) (writtenIs : s.written = tr.written) :
    t.keyed = (tr.run s.konShift txs).keyed ∧ t.written = (tr.run s.konShift txs).written := by
  cases issues with
  | clocks n clocked =>
    rw [Tracker.run_clocks, clocked.keyed, clocked.written]
    exact ⟨keyedIs, writtenIs⟩
  | reset n _ _ _ _ keyed written =>
    rw [Tracker.run_append, Tracker.run_clocks, keyed, written]
    exact ⟨rfl, rfl⟩
  | absent _ _ noChip => simp [present] at noChip
  | writes _ ws _ _ _ keyed written =>
    obtain ⟨runKeyed, runWritten⟩ := Tracker.run_pairs_tracks s.konShift tr ws
    rw [runKeyed, runWritten, keyed, written, keyedIs, writtenIs]
    exact ⟨rfl, rfl⟩

theorem State.WritesPass.head {ws : List (Byte × Byte)} {a v : Byte} (passes : s.WritesPass ((a, v) :: ws)) :
    s.protoViolation a v = false := passes [] a v ws rfl

theorem State.WritesPass.tail {ws : List (Byte × Byte)} {a v : Byte} (passes : s.WritesPass ((a, v) :: ws)) :
    ((s.portPair a v).track a v).WritesPass ws := fun done b x rest decomposed =>
  passes ((a, v) :: done) b x rest (by rw [decomposed]; rfl)

/-- Writes that pass in strict mode leave a clean tracker clean: each finds the bits the check saw. -/
theorem State.WritesPass.clean {ws : List (Byte × Byte)} (passes : s.WritesPass ws) (strict : s.strict = true)
    {tr : Tracker} (keyedIs : s.keyed = tr.keyed) (writtenIs : s.written = tr.written) (clean : tr.clean = true) :
    (tr.run s.konShift ((pairOps ws).map .op)).clean = true := by
  induction ws generalizing s tr with
  | nil => exact clean
  | cons p rest ih =>
    obtain ⟨a, v⟩ := p
    have head : breaksProtocol s.konShift tr.keyed tr.written a v = false := by
      have passed := passes.head
      rwa [State.protoViolation, strict, Bool.true_and, keyedIs, writtenIs] at passed
    rw [Tracker.run_pair, clean, head]
    exact ih passes.tail strict (by simp [keyedIs]) (by simp [writtenIs]) rfl

theorem Issues.clean {txs : List ChipTx} (issues : Issues s t txs) (strict : s.strict = true) :
    protocolClean s.konShift s.keyed s.written txs = true := by
  rw [protocolClean]
  cases issues with
  | clocks n | absent n => rw [Tracker.run_clocks]
  | reset n =>
    rw [Tracker.run_append, Tracker.run_clocks]
    rfl
  | writes _ ws passes => exact passes.clean strict rfl rfl rfl

/-! ### The histories' invariant -/

/-- With the chip, the step's transactions carry each clause from the old history to the new one. -/
theorem Issues.histInv_of_present {txs : List ChipTx} (issues : Issues s t txs) (steady : Steady s t)
    (inv : s.HistInv) (present : s.chipPresent = true) : t.HistInv := by
  obtain ⟨keyed, written⟩ := issues.tracks present inv.keyedIs inv.writtenIs
  rw [← Tracker.run_append, ← issues.chipHistory, ← steady.shift] at keyed written
  exact {
    pairs := by rw [issues.chipHistory, portPairs_append inv.pairs, issues.portPairs_eq_true]
    chipIs := fun _ => issues.chip_eq_chipOf present (inv.chipIs present)
    keyedIs := keyed
    writtenIs := written
    absentIs := fun absent => by simp [steady.present, present] at absent }

/-- Without the chip the block is faulted in IDLE, so that nothing is issued and no bit is set. -/
theorem Issues.histInv_of_absent {txs : List ChipTx} (issues : Issues s t txs) (steady : Steady s t)
    (reg : s.RegInv) (inv : s.HistInv) (absent : s.chipPresent = false) : t.HistInv := by
  obtain ⟨faulted, -, -⟩ := reg.absent absent
  have notGen : s.phase ≠ .gen := fun gen => by simp [reg.running (by simp [gen])] at faulted
  have empty := inv.absentIs absent
  have keyedIs := inv.keyedIs
  have writtenIs := inv.writtenIs
  rw [empty] at keyedIs writtenIs
  have silent : t.chipHistory = [] ∧ t.keyed = 0#8 ∧ t.written = 0#224 := by
    cases issues with
    | clocks n clocked =>
      obtain rfl := clocked.inGen.resolve_right notGen
      exact ⟨by rw [clocked.history, empty]; rfl, clocked.keyed.trans keyedIs, clocked.written.trans writtenIs⟩
    | absent n clocked _ history keyed written =>
      obtain rfl := clocked.inGen.resolve_right notGen
      exact ⟨by rw [history, clocked.history, empty]; rfl, keyed, written⟩
    | reset _ _ there => simp [absent, faulted] at there
    | writes unfaulted => simp [faulted] at unfaulted
  obtain ⟨history, keyed, written⟩ := silent
  exact {
    pairs := by rw [history]; rfl
    chipIs := fun present => by simp [steady.present, absent] at present
    keyedIs := by rw [history, keyed]; rfl
    writtenIs := by rw [history, written]; rfl
    absentIs := fun _ => history }

theorem State.powerOn_histInv (present : Bool) (shift : KonShift) : (State.powerOn present shift).HistInv := by
  cases present <;> constructor <;> simp [State.powerOn, portPairs, chipOf, chipAfter, chipResetFn, Tracker.run,
    Tracker.after, Tracker.start]

/-! ### Samples -/

theorem ampOk_norm (x : Word) : ampOk (norm x) = true := by
  obtain ⟨low, high⟩ := normInt_mem_Icc x.toInt
  rw [ampOk, decide_eq_true_eq, norm_toInt]
  exact ⟨low, high⟩

theorem OutEvent.bounded_of_not_isSample {e : OutEvent} (noSample : e.isSample = false) : e.bounded = true := by
  cases e with
  | sample => cases noSample
  | play | stop | discard => rfl

/-- The normalizer clamps, so every sample a step emits is bounded, whatever the engine returns. -/
theorem Emits.ampInv (emits : Emits s t) (inv : s.AmpInv) : t.AmpInv := by
  unfold State.AmpInv at inv ⊢
  cases emits with
  | others es noSample history =>
    rw [history, List.all_append, inv, Bool.true_and, List.all_eq_true]
    exact fun e he => OutEvent.bounded_of_not_isSample (noSample e he)
  | sample _ l r es noSample history =>
    rw [history, List.all_append, inv, Bool.true_and, List.all_cons, OutEvent.bounded, ampOk_norm, ampOk_norm,
      Bool.true_and, Bool.true_and, List.all_eq_true]
    exact fun e he => OutEvent.bounded_of_not_isSample (noSample e he)

theorem Emits.outHistory_prefix (emits : Emits s t) : s.outHistory <+: t.outHistory := by
  cases emits with
  | others _ _ history | sample _ _ _ _ _ history => exact ⟨_, history.symm⟩

/-! ### Counts -/

theorem sampleEvents_append (xs ys : List OutEvent) :
    sampleEvents (xs ++ ys) = sampleEvents xs + sampleEvents ys := List.countP_append

theorem sampleEvents_eq_zero {es : List OutEvent} (noSample : ∀ e ∈ es, e.isSample = false) : sampleEvents es = 0 :=
  List.countP_eq_zero.2 fun e he => by simp [noSample e he]

theorem Emits.sampleEvents_eq (emits : Emits s t) (notGen : s.phase ≠ .gen) :
    sampleEvents t.outHistory = sampleEvents s.outHistory := by
  cases emits with
  | others es noSample history => rw [history, sampleEvents_append, sampleEvents_eq_zero noSample, Nat.add_zero]
  | sample gen => exact absurd gen notGen

theorem clockCount_append (xs ys : List ChipTx) : clockCount (xs ++ ys) = clockCount xs + clockCount ys :=
  List.count_append

@[simp] theorem clockCount_clocks (n : Nat) : clockCount (List.replicate n (.op .clock)) = n :=
  List.count_replicate_self

@[simp] theorem clockCount_reset : clockCount [.reset] = 0 := rfl

@[simp] theorem clockCount_pairOps (ws : List (Byte × Byte)) : clockCount ((pairOps ws).map .op) = 0 := by
  induction ws with
  | nil => rfl
  | cons p rest ih => exact ih

theorem Issues.clockCount_eq {txs : List ChipTx} (issues : Issues s t txs) (notGen : s.phase ≠ .gen) :
    clockCount t.chipHistory = clockCount s.chipHistory := by
  rw [issues.chipHistory, clockCount_append, Nat.add_eq_left]
  cases issues with
  | clocks n clocked | absent n clocked => rw [clockCount_clocks, clocked.inGen.resolve_right notGen]
  | reset n clocked =>
    rw [clockCount_append, clockCount_clocks, clocked.inGen.resolve_right notGen, clockCount_reset]
  | writes _ ws => exact clockCount_pairOps ws

end

end Sys2Proof.Machine

namespace Sys2Proof.Proofs

open Sys2Proof Sys2Proof.Machine

/-- Settles O43: where the chip is there the transactions of the step extend what the history says; where it is not
nothing is issued. -/
theorem stepsKeepTheHistoryInvariant : Obligations.StepsKeepTheHistoryInvariant := by
  intro s t reg inv h
  obtain ⟨txs, issues⟩ := (step_effect h).issues
  have steady := (step_effect h).steady
  cases chip : s.chipPresent with
  | true => exact issues.histInv_of_present steady inv chip
  | false => exact issues.histInv_of_absent steady reg inv chip

/-- Settles O44: what a step emits is bounded. -/
theorem stepsKeepSamplesBounded : Obligations.StepsKeepSamplesBounded :=
  fun _ _ inv h => (step_effect h).emits.ampInv inv

/-- Settles O41: each clause is read off the power-on state. -/
theorem powerOnMeetsTheInvariants : Obligations.PowerOnMeetsTheInvariants :=
  fun present shift => ⟨State.powerOn_regInv present shift, State.powerOn_histInv present shift, rfl⟩

/-- Settles O21: writes that a strict step issues have passed their checks; nothing else can break the protocol. -/
theorem strictStepsObeyTheProtocol : Obligations.StrictStepsObeyTheProtocol := by
  intro s t strict h
  obtain ⟨txs, issues⟩ := (step_effect h).issues
  exact ⟨txs, issues.chipHistory, issues.clean strict⟩

/-- Settles O57: every kind of effect appends to the histories. -/
theorem historiesOnlyGrow : Obligations.HistoriesOnlyGrow := by
  intro s t h
  obtain ⟨txs, issues⟩ := (step_effect h).issues
  have steady := (step_effect h).steady
  exact ⟨⟨txs, issues.chipHistory.symm⟩, (step_effect h).emits.outHistory_prefix, steady.responses, steady.present,
    steady.shift⟩

/-- Settles O58: native cycles and samples belong to the output step. -/
theorem onlyGenerationClocksTheChip : Obligations.OnlyGenerationClocksTheChip := by
  intro s t notGen h
  obtain ⟨txs, issues⟩ := (step_effect h).issues
  exact ⟨issues.clockCount_eq notGen, (step_effect h).emits.sampleEvents_eq notGen⟩

end Sys2Proof.Proofs

/-! # Steps and events (spec/60_exceptions.md R187 to R194, spec/42_normalizer_sink.md R165)

One equation for a step in each phase and for each kind of event at a taking point; from these, what the events do where
they are taken. -/

namespace Sys2Proof.Machine

section
variable {s t : State} {a : Arrivals}

/-! ### An output step inside the loop -/

@[simp] theorem State.outputStep_arrivals (s : State) (chip : ChipSample) :
    (s.outputStep chip).arrivals = s.arrivals := by
  rw [State.outputStep_issues_and_emits]

@[simp] theorem State.outputStep_phase (s : State) (chip : ChipSample) : (s.outputStep chip).phase = s.phase := by
  rw [State.outputStep_issues_and_emits]

/-- The state in which the events after an output step are looked at: the step is whole, REMAIN is counted down and the
taking point is past (spec/41_resampler.md R149). -/
def State.iterated (s : State) (chip : ChipSample) : State :=
  { s.outputStep chip with remain := s.remain - 1#40, arrivals := s.arrivals.tail }

@[simp] theorem State.iterated_phase (s : State) (chip : ChipSample) : (s.iterated chip).phase = s.phase :=
  s.outputStep_phase chip

/-- The events at this taking point play no part before they are looked at. -/
theorem State.iterated_arrivals_cons (s : State) (chip : ChipSample) (a : Arrivals) :
    State.iterated { s with arrivals := a :: s.arrivals.tail } chip = s.iterated chip := by
  simp only [State.iterated, State.outputStep_eq, List.tail_cons]
  rfl

theorem State.takingPoint_outputStep (s : State) (chip : ChipSample) :
    State.takingPoint { s.outputStep chip with remain := s.remain - 1#40 } =
      (s.iterated chip).takeEvents s.nextArrivals := by
  rw [State.takingPoint, State.passPoint, State.nextArrivals, State.nextArrivals, State.outputStep_arrivals,
    State.iterated]

/-! ### A step, by phase -/

/-- Outside the generation phase a step at which an event is present takes it. -/
theorem step_of_event (notGen : s.phase ≠ .gen) (event : s.nextArrivals.any = true) : step s = .next s.takingPoint := by
  cases phase : s.phase with
  | idle => simp [step, stepWith, phase, idleStep, event]
  | gen => exact absurd phase notGen
  | waitSink => simp [step, stepWith, phase]

theorem step_waitSink (wait : s.phase = .waitSink) : step s = .next s.takingPoint := by
  simp [step, stepWith, wait]

/-- An iteration is a whole output step, then the events present, then the test of the loop. -/
theorem step_gen (gen : s.phase = .gen) (more : s.remain ≠ 0#40) (rate : s.outRate ≠ 0#24) :
    step s = .next ((s.iterated Config.chipSample).takeEvents s.nextArrivals).loopTest := by
  have iteration : step s = s.genIteration Config.chipSample := by simp [step, stepWith, gen]
  rcases s.genIteration_cases Config.chipSample with ⟨ended, -⟩ | ⟨-, noRate, -⟩ | ⟨-, -, runs⟩
  · exact absurd ended more
  · exact absurd noRate rate
  · rw [iteration, runs, State.takingPoint_outputStep]

theorem step_gen_of_rate_zero (gen : s.phase = .gen) (more : s.remain ≠ 0#40) (noRate : s.outRate = 0#24) :
    step s = .fault .outputStepAtRateZero := by
  simp [step, stepWith, gen, State.genIteration, more, noRate]

/-- The state with the host's next access taken off the bus and the taking point past. -/
def State.accessTaken (s : State) (rest : List HostAccess) : State :=
  { s with bus := rest, arrivals := s.arrivals.tail }

/-- In IDLE with no event present a step serves the host's next access. -/
theorem step_serves {x : HostAccess} {rest : List HostAccess} (idle : s.phase = .idle) (quiet : s.quiet)
    (next : s.bus = x :: rest) :
    step s = runAction ((s.accessTaken rest).serveAccess x) := by
  rw [State.quiet] at quiet
  simp [step, stepWith, idle, idleStep, quiet, State.serveHost, next, State.passPoint, State.accessTaken]

/-! ### The events present at a taking point, in the order of R191 -/

theorem State.takeEvents_of_hwreset (hwreset : a.hwreset = true) : s.takeEvents a = s.takeHwreset := if_pos hwreset

theorem State.takeEvents_of_abort (noHwreset : a.hwreset = false) (abort : a.abort = true) :
    s.takeEvents a = s.takeAbort := by
  rw [State.takeEvents, noHwreset, abort]
  rfl

/-- A sink_done present with a sink_error finds IDLE and is ignored. -/
theorem State.takeEvents_of_sinkError (noHwreset : a.hwreset = false) (noAbort : a.abort = false)
    (sinkError : a.sinkError = true) : s.takeEvents a = s.takeSinkError := by
  rcases s.takeEvents_cases a with ⟨hwreset, -⟩ | ⟨-, abort, -⟩ | ⟨-, -, -, taken⟩ | ⟨-, -, noError, -⟩ | ⟨none, -⟩
  · simp [noHwreset] at hwreset
  · simp [noAbort] at abort
  · exact taken
  · simp [sinkError] at noError
  · simp [Arrivals.any, sinkError] at none

theorem State.takeEvents_of_sinkDone (noHwreset : a.hwreset = false) (noAbort : a.abort = false)
    (noError : a.sinkError = false) (sinkDone : a.sinkDone = true) : s.takeEvents a = s.takeSinkDone := by
  rw [State.takeEvents, noHwreset, noAbort, noError, sinkDone]
  rfl

theorem Arrivals.any_of_hwreset (hwreset : a.hwreset = true) : a.any = true := by simp [Arrivals.any, hwreset]
theorem Arrivals.any_of_abort (abort : a.abort = true) : a.any = true := by simp [Arrivals.any, abort]
theorem Arrivals.any_of_sinkError (sinkError : a.sinkError = true) : a.any = true := by simp [Arrivals.any, sinkError]
theorem Arrivals.any_of_sinkDone (sinkDone : a.sinkDone = true) : a.any = true := by simp [Arrivals.any, sinkDone]

/-! ### The host's side while the block is busy -/

/-- No access has been taken and nothing answered. -/
def State.HostKept (s t : State) : Prop := t.bus = s.bus ∧ t.responses = s.responses

theorem State.HostKept.trans {u : State} (first : s.HostKept t) (second : t.HostKept u) : s.HostKept u :=
  ⟨second.1.trans first.1, second.2.trans first.2⟩

theorem State.Sequenced.hostKept (moved : s.Sequenced t) : s.HostKept t := by
  obtain ⟨es, -, frame⟩ := moved
  rw [frame]
  exact ⟨rfl, rfl⟩

theorem EventEffect.hostKept (event : EventEffect s t) : s.HostKept t := by
  rcases event.sequenced_or_reset with moved | ⟨es, b, -, rfl⟩
  · exact moved.hostKept
  · exact ⟨by simp, by simp⟩

theorem State.outputStep_hostKept (s : State) (chip : ChipSample) : s.HostKept (s.outputStep chip) := by
  rw [State.outputStep_issues_and_emits]
  exact ⟨rfl, rfl⟩

theorem StepEffect.hostKept {chip : ChipSample} (effect : StepEffect chip s t) (busy : s.phase ≠ .idle) :
    s.HostKept t := by
  cases effect with
  | events _ event => exact event.hostKept
  | served idle | write idle | command idle => exact absurd idle busy
  | finish => exact s.finishGen_sequenced.hostKept
  | @generate _ _ _ u event =>
    have events : State.HostKept (s.outputStep chip) u := event.hostKept
    exact ((s.outputStep_hostKept chip).trans events).trans u.loopTest_sequenced.hostKept

end

end Sys2Proof.Machine

namespace Sys2Proof.Proofs

open Sys2Proof Sys2Proof.Machine

/-- Settles O40: a reset event is the reset sequence, which gives the power-on state. -/
theorem resetEventsGiveThePowerOnState : Obligations.ResetEventsGiveThePowerOnState := by
  refine fun s notGen => ⟨fun hwreset => ?hwreset, fun noHwreset abort => ?abort⟩
  case hwreset =>
    rw [step_of_event notGen (Arrivals.any_of_hwreset hwreset), State.takingPoint, State.takeEvents_of_hwreset hwreset,
      State.takeHwreset_eq, State.resetSequence_eq]
    rfl
  case abort =>
    rw [step_of_event notGen (Arrivals.any_of_abort abort), State.takingPoint,
      State.takeEvents_of_abort noHwreset abort, State.takeAbort_eq, State.resetSequence_eq]
    simp only [State.emit_chipPresent, State.emit_konShift, State.emit_outHistory, List.append_assoc]
    rfl

/-- Settles O46: the sink_error is taken with any sink_done ignored. -/
theorem sinkErrorEndsTheWait : Obligations.SinkErrorEndsTheWait := by
  intro s notGen noHwreset noAbort sinkError
  rw [step_of_event notGen (Arrivals.any_of_sinkError sinkError), State.takingPoint,
    State.takeEvents_of_sinkError noHwreset noAbort sinkError, State.takeSinkError_of_ne_gen (s := s.passPoint) notGen]
  rfl

/-- Settles O47: a sink_done changes the phase of a wait, and elsewhere it is as if no event had come. -/
theorem waitEndsOnlyByAnEvent : Obligations.WaitEndsOnlyByAnEvent := by
  refine ⟨fun s wait quiet => ?quiet, fun s noHwreset noAbort noError sinkDone =>
    ⟨fun wait => ?wait, fun idle => ?idle, fun gen more => ?gen⟩⟩
  case quiet =>
    rw [step_waitSink wait, State.takingPoint_of_quiet quiet]
    rfl
  case wait =>
    rw [step_waitSink wait, State.takingPoint, State.takeEvents_of_sinkDone noHwreset noAbort noError sinkDone,
      State.takeSinkDone_of_waitSink (s := s.passPoint) wait]
    rfl
  case idle =>
    rw [step_of_event (by simp [idle]) (Arrivals.any_of_sinkDone sinkDone), State.takingPoint,
      State.takeEvents_of_sinkDone noHwreset noAbort noError sinkDone,
      State.takeSinkDone_of_ne_waitSink (by simp [idle])]
    rfl
  case gen =>
    by_cases rate : s.outRate = 0#24
    · rw [step_gen_of_rate_zero (s := { s with arrivals := Arrivals.quiet :: s.arrivals.tail }) gen more rate,
        step_gen_of_rate_zero gen more rate]
    · rw [step_gen (s := { s with arrivals := Arrivals.quiet :: s.arrivals.tail }) gen more rate,
        step_gen gen more rate, State.iterated_arrivals_cons,
        State.takeEvents_of_sinkDone noHwreset noAbort noError sinkDone,
        State.takeSinkDone_of_ne_waitSink (by simp [gen]), State.takeEvents_of_quiet rfl]

/-- Settles O48: the events are looked at after the output step, and each of the three leaves the phase. -/
theorem eventsWaitForTheOutputStep : Obligations.EventsWaitForTheOutputStep := by
  intro s u gen more rate after
  obtain rfl : u = s.iterated Config.chipSample := after
  rw [step_gen gen more rate]
  refine ⟨fun hwreset => ?hwreset, fun noHwreset abort => ?abort, fun noHwreset noAbort sinkError => ?sinkError⟩
  case hwreset =>
    rw [State.takeEvents_of_hwreset hwreset, State.loopTest_of_ne_gen (by simp [State.takeHwreset_eq])]
  case abort =>
    rw [State.takeEvents_of_abort noHwreset abort, State.loopTest_of_ne_gen (by simp [State.takeAbort_eq])]
  case sinkError =>
    rw [State.takeEvents_of_sinkError noHwreset noAbort sinkError, State.takeSinkError_of_gen (by simp [gen]),
      State.loopTest_of_ne_gen (by simp)]

/-- Settles O50: events, output steps and the end of the loop leave the host's side alone. -/
theorem busyBlockServesNoAccess : Obligations.BusyBlockServesNoAccess :=
  fun _ _ busy h => (step_effect h).hostKept busy

end Sys2Proof.Proofs

/-! # The host's side (spec/20_memory.md R51 to R55, spec/10_state.md R25)

One equation for each way an access can come out; from these, what a step does with the host's next access, and where a
step stops. -/

namespace Sys2Proof.Machine

section
variable {s : State}

/-! ### One access -/

theorem HostAccess.aligned_iff {a : HostAccess} : a.aligned = true ↔ a.width = .word ∧ a.offset % 4 = 0 := by
  simp [HostAccess.aligned]

theorem State.serveAccess_of_not_aligned {a : HostAccess} (inside : a.offset ≤ 0xFF)
    (narrow : a.width ≠ .word ∨ a.offset % 4 ≠ 0) : s.serveAccess a = .done (s.respond .busError) := by
  have notAligned : ¬ a.aligned = true := fun aligned =>
    let ⟨width, offset⟩ := HostAccess.aligned_iff.1 aligned
    narrow.elim (· width) (· offset)
  rw [State.serveAccess, if_neg (not_lt.2 inside), if_neg notAligned]

variable {offset : Nat}

theorem State.serveAccess_read (inside : offset ≤ 0xFF) (aligned : offset % 4 = 0) :
    s.serveAccess ⟨.read, .word, offset⟩ = .done (s.respond (.data (s.hostRead offset))) := by
  rw [State.serveAccess, if_neg (not_lt.2 inside), if_pos (HostAccess.aligned_iff.2 ⟨rfl, aligned⟩)]

theorem State.serveAccess_write_of_faulted (inside : offset ≤ 0xFF) (aligned : offset % 4 = 0)
    (faulted : s.fault = true) (v : Word) : s.serveAccess ⟨.write v, .word, offset⟩ = .done s := by
  rw [State.serveAccess, if_neg (not_lt.2 inside), if_pos (HostAccess.aligned_iff.2 ⟨rfl, aligned⟩)]
  exact if_pos faulted

theorem State.serveAccess_write (inside : offset ≤ 0xFF) (aligned : offset % 4 = 0) (unfaulted : s.fault = false)
    (notCmd : offset ≠ 0x0C) (v : Word) :
    s.serveAccess ⟨.write v, .word, offset⟩ = .done (s.writeRegister offset v) := by
  rw [State.serveAccess, if_neg (not_lt.2 inside), if_pos (HostAccess.aligned_iff.2 ⟨rfl, aligned⟩)]
  simp [unfaulted, cmdOffset, notCmd]

theorem State.serveAccess_cmdWrite (unfaulted : s.fault = false) (w : Word) :
    s.serveAccess (cmdWrite w) = .command w s := by
  simp [State.serveAccess, HostAccess.aligned, cmdWrite, cmdOffset, unfaulted]

/-- A command word is executed in the step that accepts it (spec/40_register_programmer.md R100). -/
theorem step_cmdWrite {w : Word} {rest : List HostAccess} (accepting : s.accepting) (quiet : s.quiet)
    (next : s.bus = cmdWrite w :: rest) :
    step s = execute w (s.accessTaken rest) := by
  obtain ⟨idle, unfaulted⟩ := accepting
  rw [step_serves idle quiet next, State.serveAccess_cmdWrite (s := s.accessTaken rest) unfaulted, runAction]

/-! ### Registers as read and written -/

/-- The seven words of VCFG lie one after the other from 0x40 on (spec/10_state.md R33). -/
theorem State.hostRead_vcfg (s : State) {i : Nat} (hi : i < 7) : s.hostRead (0x40 + 4 * i) = s.vcfg.word i := by
  interval_cases i <;> rfl

theorem State.hostRead_reserved (s : State)
    (reserved : offset = 0x0C ∨ (0x28 ≤ offset ∧ offset < 0x40) ∨ 0x5C ≤ offset) : s.hostRead offset = 0#32 := by
  unfold State.hostRead
  split
  case h_17 => rfl
  all_goals omega

theorem State.ctrlWord_toNat (s : State) : s.ctrlWord.toNat = s.strict.toNat + 2 * s.rnd.toNat := by
  cases strict : s.strict <;> cases rnd : s.rnd <;> simp [State.ctrlWord, strict, rnd]

theorem State.writeRegister_vcfg (s : State) {i : Nat} (hi : i < 7) (v : Word) :
    s.writeRegister (0x40 + 4 * i) v = { s with vcfg := s.vcfg.setWord i v } := by
  interval_cases i <;> rfl

/-- Read-only and reserved offsets (spec/20_memory.md R53). -/
theorem State.writeRegister_ignored (s : State)
    (ignored : offset = 0x08 ∨ (0x1C ≤ offset ∧ offset < 0x40) ∨ 0x5C ≤ offset) (v : Word) :
    s.writeRegister offset v = s := by
  unfold State.writeRegister
  split
  case h_13 => rfl
  all_goals omega

/-- The flags are the four lowest bits of STATUS (spec/10_state.md R25). -/
theorem State.statusWord_flags (s : State) :
    s.statusWord.getLsbD 0 = s.fault ∧ s.statusWord.getLsbD 1 = s.sinkErr ∧ s.statusWord.getLsbD 2 = s.cancel ∧
      s.statusWord.getLsbD 3 = s.chipPresent := by
  simp only [State.statusWord, BitVec.getLsbD_append]
  simp

/-- The fields above the flags, from CAUSE up (R25). -/
theorem State.statusWord_fields (s : State) :
    s.statusWord.extractLsb' 4 4 = causeCode s.cause ∧ s.statusWord.extractLsb' 8 8 = s.keyed ∧
      s.statusWord.extractLsb' 16 8 = 0#8 ∧ s.statusWord.extractLsb' 24 8 = s.freg := by
  refine ⟨?_, ?_, ?_, ?_⟩ <;>
    simp (disch := decide) only [State.statusWord, BitVec.extractLsb'_append_eq_of_le,
      BitVec.extractLsb'_append_eq_of_add_le, BitVec.extractLsb'_eq_self, Nat.reduceSub]

/-! ### Where a step stops -/

/-- An access is refused for its offset alone (spec/20_memory.md R51). -/
theorem runAction_serveAccess_eq_refused_iff {a : HostAccess} {r : Refusal} :
    runAction (s.serveAccess a) = .refused r ↔ r = .offsetOutsideYrs ∧ 0xFF < a.offset := by
  rcases s.serveAccess_cases a with ⟨outside, served⟩ | ⟨inside, -, served⟩ | ⟨inside, -, -, served⟩ |
      ⟨v, inside, -, -, -, served⟩ | ⟨w, cmd, -, -, -, served⟩ | ⟨v, inside, -, -, -, -, served⟩ <;>
    rw [served, runAction]
  · simp [outside, eq_comm]
  · simp [not_lt.2 inside]
  · simp [not_lt.2 inside]
  · simp [not_lt.2 inside]
  · obtain ⟨t, goesOn, -⟩ := execute_effect w s
    simp [goesOn, cmd, cmdOffset]
  · simp [not_lt.2 inside]

theorem runAction_serveAccess_ne_fault (a : HostAccess) (f : Fault) : runAction (s.serveAccess a) ≠ .fault f := by
  rcases s.serveAccess_cases a with ⟨-, served⟩ | ⟨-, -, served⟩ | ⟨-, -, -, served⟩ | ⟨v, -, -, -, -, served⟩ |
      ⟨w, -, -, -, -, served⟩ | ⟨v, -, -, -, -, -, served⟩ <;>
    rw [served, runAction]
  · simp
  · simp
  · simp
  · simp
  · obtain ⟨t, goesOn, -⟩ := execute_effect w s
    simp [goesOn]
  · simp

theorem State.genIteration_ne_refused (s : State) (chip : ChipSample) (r : Refusal) :
    s.genIteration chip ≠ .refused r := by
  rcases s.genIteration_cases chip with ⟨-, outcome⟩ | ⟨-, -, outcome⟩ | ⟨-, -, outcome⟩ <;> simp [outcome]

/-- An iteration faults only at rate 0, which the invariant excludes (spec/41_resampler.md R140). -/
theorem State.RegInv.genIteration_ne_fault (inv : s.RegInv) (gen : s.phase = .gen) (chip : ChipSample) (f : Fault) :
    s.genIteration chip ≠ .fault f := by
  rcases s.genIteration_cases chip with ⟨-, outcome⟩ | ⟨-, noRate, -⟩ | ⟨-, -, outcome⟩
  · simp [outcome]
  · exact absurd noRate (inv.generating gen).2.1
  · simp [outcome]

end

/-! ### While the block is faulted -/

/-- An access to a faulted block reads, or is dropped, or is answered with an error (spec/20_memory.md R53, step 2). -/
theorem State.runAction_serveAccess_of_faulted {s t : State} {a : HostAccess} (faulted : s.fault = true)
    (served : runAction (s.serveAccess a) = .next t) : t = { s with responses := t.responses } := by
  rcases s.serveAccess_cases a with ⟨-, action⟩ | ⟨-, -, action⟩ | ⟨-, -, -, action⟩ | ⟨v, -, -, -, -, action⟩ |
    ⟨v, -, -, -, unfaulted, -⟩ | ⟨v, -, -, -, unfaulted, -, -⟩
  · rw [action] at served
    cases served
  · rw [action] at served
    cases served
    rfl
  · rw [action] at served
    cases served
    rfl
  · rw [action] at served
    cases served
    rfl
  · simp [faulted] at unfaulted
  · simp [faulted] at unfaulted

/-- In IDLE an event that is no reset event changes SINKERR at most. -/
theorem State.takeEvents_of_idle {s : State} {a : Arrivals} (idle : s.phase = .idle) (noHwreset : a.hwreset = false)
    (noAbort : a.abort = false) : s.takeEvents a = { s with sinkErr := (s.takeEvents a).sinkErr } := by
  rcases s.takeEvents_cases a with ⟨hwreset, -⟩ | ⟨-, abort, -⟩ | ⟨-, -, -, taken⟩ | ⟨-, -, -, -, taken⟩ | ⟨-, taken⟩
  · simp [noHwreset] at hwreset
  · simp [noAbort] at abort
  · rw [taken, State.takeSinkError_of_ne_gen (by simp [idle]), ← idle]
  · rw [taken, State.takeSinkDone_of_ne_waitSink (by simp [idle])]
  · rw [taken]

end Sys2Proof.Machine

namespace Sys2Proof.Proofs

open Sys2Proof Sys2Proof.Machine

/-- Settles O45: the only refusal is that of an access served in IDLE; the only fault that of an iteration at rate 0. -/
theorem stepStopsOnlyOutsideYrs : Obligations.StepStopsOnlyOutsideYrs := by
  refine fun s => ⟨fun r => ⟨fun refused => ?served, ?outside⟩, fun inv f faulted => ?noFault⟩
  case served =>
    rcases step_cases s with ⟨-, -, runs⟩ | ⟨-, -, -, runs⟩ | ⟨a, rest, idle, quiet, next, runs⟩ | ⟨-, runs⟩ |
        ⟨-, runs⟩ <;>
      rw [runs] at refused
    · cases refused
    · cases refused
    · obtain ⟨reason, outside⟩ := runAction_serveAccess_eq_refused_iff.1 refused
      exact ⟨reason, idle, quiet, a, rest, next, outside⟩
    · exact absurd refused (s.genIteration_ne_refused _ r)
    · cases refused
  case outside =>
    rintro ⟨rfl, idle, quiet, a, rest, next, outside⟩
    rw [step_serves idle quiet next]
    exact runAction_serveAccess_eq_refused_iff.2 ⟨rfl, outside⟩
  case noFault =>
    rcases step_cases s with ⟨-, -, runs⟩ | ⟨-, -, -, runs⟩ | ⟨a, rest, -, -, -, runs⟩ | ⟨gen, runs⟩ | ⟨-, runs⟩ <;>
      rw [runs] at faulted
    · cases faulted
    · cases faulted
    · exact runAction_serveAccess_ne_fault a f faulted
    · exact inv.genIteration_ne_fault gen _ f faulted
    · cases faulted

/-- Settles O49: events other than the reset events, and accesses to a faulted block. -/
theorem faultIsStickyUntilReset : Obligations.FaultIsStickyUntilReset := by
  intro s t idle faulted noHwreset noAbort h
  rcases step_cases s with ⟨-, -, runs⟩ | ⟨-, -, -, runs⟩ | ⟨a, rest, -, -, -, runs⟩ | ⟨gen, -⟩ | ⟨wait, -⟩
  · rw [runs] at h
    cases h
    rw [State.takingPoint, State.takeEvents_of_idle (s := s.passPoint) idle noHwreset noAbort]
    rfl
  · rw [runs] at h
    cases h
    rfl
  · rw [runs] at h
    rw [State.runAction_serveAccess_of_faulted (s := { s.passPoint with bus := rest }) faulted h]
    rfl
  · simp [idle] at gen
  · simp [idle] at wait

/-- Settles O51: the value is `State.hostRead`, read register by register. -/
theorem readsReturnRegistersAndChangeNothing : Obligations.ReadsReturnRegistersAndChangeNothing := by
  intro s offset rest idle quiet next inside aligned
  refine ⟨s.hostRead offset, ?served, ?ctrl, ?status, ?finfo, ?clkFreq, ?outRate, ?duration, ?acc, ?holdL, ?holdR,
    fun i hi at_i j hj => ?vcfg, s.hostRead_reserved⟩
  case served =>
    rw [step_serves idle quiet next, State.serveAccess_read inside aligned]
    rfl
  case ctrl =>
    rintro rfl
    exact s.ctrlWord_toNat
  case outRate =>
    rintro rfl
    exact BitVec.toNat_setWidth_of_le (by decide)
  case acc =>
    rintro rfl
    exact BitVec.toNat_setWidth_of_le (by decide)
  case vcfg => rw [at_i, s.hostRead_vcfg hi, Staging.byte_four_mul_add _ i hj]
  all_goals
    rintro rfl
    rfl

/-- Settles O52: STATUS is the fields one after the other. -/
theorem statusReadsItsFields : Obligations.StatusReadsItsFields := by
  intro s
  obtain ⟨fault, sinkErr, cancel, present⟩ := s.statusWord_flags
  obtain ⟨cause, keyed, zeros, freg⟩ := s.statusWord_fields
  refine ⟨fault, sinkErr, cancel, present, ?code, keyed, zeros, freg⟩
  case code =>
    rw [cause]
    cases s.cause with
    | none => rfl
    | some c => cases c <;> rfl

/-- Settles O53: the write is `State.writeRegister`, register by register. -/
theorem writesFollowTheRegisterMap : Obligations.WritesFollowTheRegisterMap := by
  intro s u offset v rest accepting quiet next inside aligned notCmd after
  obtain ⟨idle, unfaulted⟩ := accepting
  obtain rfl : u = s.accessTaken rest := after
  rw [step_serves idle quiet next,
    State.serveAccess_write (s := s.accessTaken rest) inside aligned unfaulted notCmd, runAction]
  refine ⟨?ctrl, ?status, ?clkFreq, ?outRate, ?duration, fun i hi at_i => ?vcfg, fun ignored => ?ignored⟩
  case vcfg =>
    rw [at_i, State.writeRegister_vcfg _ hi]
    rfl
  case ignored => rw [State.writeRegister_ignored _ ignored]
  case outRate =>
    rintro rfl
    rw [← BitVec.setWidth_eq_extractLsb' (by decide)]
    rfl
  all_goals
    rintro rfl
    rfl

/-- Settles O55: such an access is answered before anything else is looked at but its offset. -/
theorem narrowAccessesGetBusErrors : Obligations.NarrowAccessesGetBusErrors := by
  intro s a rest idle quiet next inside narrow
  rw [step_serves idle quiet next, State.serveAccess_of_not_aligned inside narrow]
  rfl

/-- Settles O56: FAULT is looked at before the offset is. -/
theorem faultedWritesAreDropped : Obligations.FaultedWritesAreDropped := by
  intro s v offset rest idle quiet faulted next inside aligned
  rw [step_serves idle quiet next, State.serveAccess_write_of_faulted (s := s.accessTaken rest) inside aligned faulted]
  rfl

/-- Settles O6: the word is executed, as its command or as a word that no row selects. -/
theorem stepRunsTheDecodedCommand : Obligations.StepRunsTheDecodedCommand := by
  intro s u w rest accepting quiet next after
  obtain rfl : u = s.accessTaken rest := after
  rw [step_cmdWrite accepting quiet next]
  refine ⟨rfl, fun i accepted => ?command, fun selectsNone => illegalWordsRaiseIllcmd w selectsNone _⟩
  case command => rw [execute, accepted]

end Sys2Proof.Proofs

/-! # Generation (spec/41_resampler.md R132, R133, R142, R148, R149)

What GEN and RUN accept, the generation loop run to its end where no event comes, and output steps in sequence. -/

namespace Sys2Proof.Machine

/-! ### GEN and RUN -/

section
variable {s : State}

theorem exec_gen_zero (s : State) : exec (.gen 0#24) s = .next s := rfl

theorem exec_gen_of_rate_zero {n : BitVec 24} (count : n ≠ 0#24) (noRate : s.outRate = 0#24) :
    exec (.gen n) s = .next (s.recorded .cfg (encode (.gen n)) 0#8) := by
  rw [exec, execGen, if_neg count, if_pos noRate]
  rfl

theorem exec_gen {n : BitVec 24} (count : n ≠ 0#24) (rate : s.outRate ≠ 0#24) :
    exec (.gen n) s = .next (s.startGen (n.setWidth 40) false false) := by
  rw [exec, execGen, if_neg count, if_neg rate]

theorem exec_run_of_nonpos (noTime : s.duration.toInt ≤ 0) (b : Bool) : exec (.run b) s = .next s := by
  rw [exec, execRun, if_pos noTime]

theorem exec_run_of_rate_zero (time : 0 < s.duration.toInt) (noRate : s.outRate = 0#24) (b : Bool) :
    exec (.run b) s = .next (s.recorded .cfg (encode (.run b)) 0#8) := by
  rw [exec, execRun, if_neg (not_le.2 time), if_pos noRate]
  rfl

theorem exec_run_of_count_zero (rate : s.outRate ≠ 0#24) (noCount : s.runCount = 0) (b : Bool) :
    exec (.run b) s = .next s := by
  rw [exec, execRun, if_neg rate, if_pos noCount, ite_self]

theorem exec_run (time : 0 < s.duration.toInt) (rate : s.outRate ≠ 0#24) (count : s.runCount ≠ 0) (b : Bool) :
    exec (.run b) s = .next (s.startGen (BitVec.ofNat 40 s.runCount) true b) := by
  rw [exec, execRun, if_neg (not_le.2 time), if_neg rate, if_neg count]

/-- The count of a positive duration, read as an unsigned word (spec/41_resampler.md R134). -/
theorem State.runCount_eq (time : 0 < s.duration.toInt) :
    s.runCount = (s.duration.toNat * s.outRate.toNat + 32768) / 65536 := by
  have unsigned : s.duration.toInt = s.duration.toNat := by
    rw [BitVec.toInt_eq_toNat_cond] at time ⊢
    omega
  rw [State.runCount, unsigned, Int.toNat_natCast, sampleCount]

/-- REMAIN holds the whole count (R134). -/
theorem State.ofNat_runCount_toNat (time : 0 < s.duration.toInt) : (BitVec.ofNat 40 s.runCount).toNat = s.runCount := by
  have durationBound : s.duration.toInt.toNat < 2 ^ 31 := by
    have := s.duration.toInt_lt
    omega
  obtain ⟨-, -, bounds⟩ := Proofs.sampleCountRoundsTiesUp s.duration.toInt.toNat s.outRate.toNat (by omega)
  obtain ⟨-, -, fits⟩ := bounds durationBound s.outRate.isLt
  rw [BitVec.toNat_ofNat, State.runCount, Nat.mod_eq_of_lt fits]

end

/-! ### Machine steps in sequence -/

section
variable {s t : State}

theorem runSteps_succ (h : step s = .next t) (k : Nat) : runSteps (k + 1) s = runSteps k t := by
  simp only [runSteps, Host.Core.run, core]
  rw [h]

theorem runSteps_add {j : Nat} (h : runSteps j s = .next t) (k : Nat) : runSteps (j + k) s = runSteps k t := by
  induction j generalizing s with
  | zero =>
    cases h
    rw [Nat.zero_add]
  | succ j ih =>
    cases first : step s with
    | next u =>
      rw [runSteps_succ first] at h
      rw [Nat.add_right_comm, runSteps_succ first, ih h]
    | fault | refused => simp [runSteps, Host.Core.run, core, first] at h

/-! ### Output steps in sequence -/

theorem State.outputSteps_add (s : State) (chip : ChipSample) (j k : Nat) :
    s.outputSteps chip (j + k) = (s.outputSteps chip j).outputSteps chip k := by
  induction j generalizing s with
  | zero => rw [Nat.zero_add]; rfl
  | succ j ih => rw [Nat.add_right_comm, State.outputSteps_succ, ih, State.outputSteps_succ]

/-- Output steps do not look at the host's accesses. -/
theorem State.outputSteps_bus (s : State) (chip : ChipSample) (k : Nat) (bus : List HostAccess) :
    State.outputSteps { s with bus := bus } chip k = { s.outputSteps chip k with bus := bus } := by
  induction k generalizing s with
  | zero => rfl
  | succ k ih =>
    have first : State.outputStep { s with bus := bus } chip = { s.outputStep chip with bus := bus } := by
      simp only [State.outputStep_eq]
      rfl
    rw [State.outputSteps_succ, first, ih, State.outputSteps_succ]

/-! ### The generation loop with no event -/

theorem State.quiet_of_take {k : Nat} (noEvent : ∀ a ∈ s.arrivals.take (k + 1), a.any = false) : s.quiet := by
  rw [State.quiet, State.nextArrivals]
  cases arrivals : s.arrivals with
  | nil => rfl
  | cons a rest => exact noEvent a (by simp [arrivals])

/-- With no event an iteration is one output step, after which the loop is tested. -/
theorem step_gen_of_quiet (gen : s.phase = .gen) (more : s.remain ≠ 0#40) (rate : s.outRate ≠ 0#24) (quiet : s.quiet) :
    step s = .next (s.iterated Config.chipSample).loopTest := by
  rw [step_gen gen more rate, State.takeEvents_of_quiet quiet]

@[simp] theorem State.iterated_outRate (s : State) (chip : ChipSample) : (s.iterated chip).outRate = s.outRate :=
  s.outputStep_outRate chip

/-- Counting REMAIN down does not show in the output steps that follow. -/
theorem State.outputSteps_iterated (s : State) (chip : ChipSample) (k : Nat) (ar : List Arrivals) :
    { (s.iterated chip).outputSteps chip k with remain := 0#40, arrivals := ar } =
      { s.outputSteps chip (k + 1) with remain := 0#40, arrivals := ar } := by
  have frame := (s.outputStep chip).outputSteps_frame chip k (s.remain - 1#40) (s.outputStep chip).phase
    (s.outputStep chip).playAfter (s.outputStep chip).playBlk s.arrivals.tail
  have iterated : (s.iterated chip).outputSteps chip k = _ := frame
  rw [iterated, State.outputSteps_succ, (s.outputStep chip).outputSteps_keeps]

/-- From REMAIN = k + 1 on, k + 1 quiet iterations are k + 1 output steps and the end of the loop. -/
theorem runSteps_gen (k : Nat) (gen : s.phase = .gen) (rate : s.outRate ≠ 0#24) (remain : s.remain.toNat = k + 1)
    (noEvent : ∀ a ∈ s.arrivals.take (k + 1), a.any = false) :
    runSteps (k + 1) s = .next (State.finishGen { s.outputSteps Config.chipSample (k + 1) with
      remain := 0#40, arrivals := s.arrivals.drop (k + 1) }) := by
  induction k generalizing s with
  | zero =>
    have one : s.remain = 1#40 := BitVec.eq_of_toNat_eq remain
    have first := step_gen_of_quiet gen (by simp [one]) rate (State.quiet_of_take noEvent)
    rw [State.loopTest_of_remain_eq_zero (by simp [gen]) (by simp [State.iterated, one])] at first
    rw [runSteps_succ first, State.iterated, one, ← List.drop_one]
    rfl
  | succ k ih =>
    have more : s.remain ≠ 0#40 := fun zero => by simp [zero] at remain
    have counted : (s.iterated Config.chipSample).remain.toNat = k + 1 := by
      rw [State.iterated, BitVec.toNat_sub_of_le (by rw [BitVec.le_def, remain]; simp), remain]
      simp
    have first := step_gen_of_quiet gen more rate (State.quiet_of_take noEvent)
    rw [State.loopTest_of_remain_ne_zero (fun zero => by simp [zero] at counted)] at first
    have later : ∀ a ∈ s.arrivals.tail.take (k + 1), a.any = false := fun a ha => noEvent a (by
      cases arrivals : s.arrivals with
      | nil => simp [arrivals] at ha
      | cons b rest =>
        rw [arrivals] at ha
        exact List.mem_cons_of_mem b ha)
    have rest := ih (s := s.iterated Config.chipSample) (by simp [gen]) (by simpa using rate) counted later
    rw [runSteps_succ first, rest, State.outputSteps_iterated, State.iterated, List.drop_tail]

/-- The loop that GEN and RUN enter, run to its end. -/
theorem runSteps_startGen {n : BitVec 40} (count : n ≠ 0#40) (rate : s.outRate ≠ 0#24)
    (noEvent : ∀ a ∈ s.arrivals.take n.toNat, a.any = false) (x y : Bool) :
    runSteps n.toNat (s.startGen n x y) = .next (State.finishGen { s.outputSteps Config.chipSample n.toNat with
      phase := .gen, remain := 0#40, playAfter := x, playBlk := y, arrivals := s.arrivals.drop n.toNat }) := by
  obtain ⟨k, samples⟩ : ∃ k, n.toNat = k + 1 :=
    Nat.exists_eq_succ_of_ne_zero fun zero => count (BitVec.eq_of_toNat_eq zero)
  have frame : (s.startGen n x y).outputSteps Config.chipSample (k + 1) = _ :=
    s.outputSteps_frame Config.chipSample (k + 1) n .gen x y s.arrivals
  rw [samples] at noEvent ⊢
  rw [runSteps_gen (s := s.startGen n x y) k rfl rate samples noEvent, frame]
  rfl

/-- GEN's loop ends in IDLE. -/
theorem runSteps_startGen_gen {n : BitVec 40} (count : n ≠ 0#40) (rate : s.outRate ≠ 0#24)
    (noEvent : ∀ a ∈ s.arrivals.take n.toNat, a.any = false) :
    runSteps n.toNat (s.startGen n false false) = .next { s.outputSteps Config.chipSample n.toNat with
      phase := .idle, remain := 0#40, playAfter := false, playBlk := false, arrivals := s.arrivals.drop n.toNat } := by
  rw [runSteps_startGen count rate noEvent, State.finishGen_eq]
  rfl

/-- RUN's loop ends in the hand-off. -/
theorem runSteps_startGen_run {n : BitVec 40} (count : n ≠ 0#40) (rate : s.outRate ≠ 0#24)
    (noEvent : ∀ a ∈ s.arrivals.take n.toNat, a.any = false) (b : Bool) :
    runSteps n.toNat (s.startGen n true b) = .next { s.outputSteps Config.chipSample n.toNat with
      phase := if b then .waitSink else .idle, remain := 0#40, playAfter := false, playBlk := false
      arrivals := s.arrivals.drop n.toNat
      outHistory := (s.outputSteps Config.chipSample n.toNat).outHistory ++ [.play s.outRate b] } := by
  have sameRate : (s.outputSteps Config.chipSample n.toNat).outRate = s.outRate := by rw [State.outputSteps_keeps]
  rw [runSteps_startGen count rate noEvent, State.finishGen_eq, if_pos rfl, ← sameRate]

/-- GEN's count is not lost in the wider REMAIN. -/
theorem setWidth_count_ne_zero {n : BitVec 24} (count : n ≠ 0#24) : n.setWidth 40 ≠ 0#40 := by
  intro zero
  have value : n.toNat = (n.setWidth 40).toNat := (BitVec.toNat_setWidth_of_le (by decide)).symm
  exact count (BitVec.eq_of_toNat_eq (by rw [value, zero]; rfl))

theorem execute_encode {i : Instr} (legal : i.wellFormed = true) (s : State) : execute (encode i) s = exec i s := by
  rw [execute, decode_encode legal]

/-- The block back in IDLE with the sequencing state clear, these accesses and this schedule still to come. -/
def State.backIdle (s : State) (bus : List HostAccess) (ar : List Arrivals) : State :=
  { s with bus := bus, arrivals := ar, phase := .idle, remain := 0#40, playAfter := false, playBlk := false }

theorem State.outputSteps_backIdle (s : State) (chip : ChipSample) (k : Nat) (bus : List HostAccess)
    (ar : List Arrivals) : (s.backIdle bus ar).outputSteps chip k = (s.outputSteps chip k).backIdle bus ar := by
  have frame := State.outputSteps_frame { s with bus := bus } chip k 0#40 .idle false false ar
  rw [State.outputSteps_bus] at frame
  exact frame

theorem State.outputSteps_accessTaken (s : State) (chip : ChipSample) (k : Nat) (rest : List HostAccess) :
    (s.accessTaken rest).outputSteps chip k =
      { s.outputSteps chip k with bus := rest, arrivals := s.arrivals.tail } := by
  have frame := State.outputSteps_frame { s with bus := rest } chip k s.remain s.phase s.playAfter s.playBlk
    s.arrivals.tail
  rw [State.outputSteps_bus, s.outputSteps_keeps] at frame
  rw [s.outputSteps_keeps]
  exact frame

/-- The host's write of GEN n, with no event while it runs: the step that accepts it, then the loop. -/
theorem runSteps_cmdWrite_gen {n : BitVec 24} {rest : List HostAccess} (accepting : s.accepting)
    (next : s.bus = cmdWrite (encode (.gen n)) :: rest) (noEvent : s.arrivals = []) (count : n ≠ 0#24)
    (rate : s.outRate ≠ 0#24) :
    runSteps (n.toNat + 1) s = .next ((s.outputSteps Config.chipSample n.toNat).backIdle rest []) := by
  have samples : (n.setWidth 40).toNat = n.toNat := BitVec.toNat_setWidth_of_le (by decide)
  have quiet : s.quiet := by
    rw [State.quiet, State.nextArrivals, noEvent]
    rfl
  have taken : (s.accessTaken rest).arrivals = [] := by rw [State.accessTaken, noEvent]; rfl
  have accepted : step s = .next ((s.accessTaken rest).startGen (n.setWidth 40) false false) := by
    rw [step_cmdWrite accepting quiet next, execute_encode rfl, exec_gen (s := s.accessTaken rest) count rate]
  have loop := runSteps_startGen_gen (s := s.accessTaken rest) (setWidth_count_ne_zero count) rate (by simp [taken])
  rw [samples, State.outputSteps_accessTaken, taken, List.drop_nil] at loop
  exact (runSteps_succ accepted _).trans loop

end

/-! ### Native cycles and samples over k output steps -/

section
variable {s : State} {chip : ChipSample}

theorem State.outputStep_clockCount (s : State) (chip : ChipSample) :
    clockCount (s.outputStep chip).chipHistory = clockCount s.chipHistory + s.nativeCycles := by
  rw [State.outputStep_issues_and_emits, clockCount_append, clockCount_clocks]

theorem State.outputStep_sampleEvents (s : State) (chip : ChipSample) :
    sampleEvents (s.outputStep chip).outHistory = sampleEvents s.outHistory + 1 := by
  rw [State.outputStep_issues_and_emits, sampleEvents_append]
  rfl

@[simp] theorem State.outputStep_clkFreq (s : State) (chip : ChipSample) :
    (s.outputStep chip).clkFreq = s.clkFreq := by
  rw [State.outputStep_issues_and_emits]

/-- A remainder carried over to the next division loses no cycle. -/
theorem div_add_mod_add_div (x y d : Nat) (pos : 0 < d) : x / d + (x % d + y) / d = (x + y) / d := by
  have carried : x + y = x % d + y + d * (x / d) := by
    rw [Nat.add_right_comm, Nat.mod_add_div]
  rw [carried, Nat.add_mul_div_left _ _ pos, Nat.add_comm]

/-- k output steps count k increments exactly (spec/41_resampler.md R148). -/
theorem State.outputSteps_counts (k : Nat) (rate : s.outRate ≠ 0#24) (bound : s.acc.toNat < s.den) :
    clockCount (s.outputSteps chip k).chipHistory =
        clockCount s.chipHistory + (s.acc.toNat + k * s.clkFreq.toNat) / s.den ∧
      (s.outputSteps chip k).acc.toNat = (s.acc.toNat + k * s.clkFreq.toNat) % s.den ∧
      sampleEvents (s.outputSteps chip k).outHistory = sampleEvents s.outHistory + k := by
  have pos : 0 < s.den := Nat.zero_lt_of_lt bound
  induction k generalizing s with
  | zero =>
    rw [Nat.zero_mul, Nat.add_zero, Nat.div_eq_of_lt bound, Nat.mod_eq_of_lt bound]
    exact ⟨rfl, rfl, rfl⟩
  | succ k ih =>
    have sameDen : (s.outputStep chip).den = s.den := by rw [State.den_eq, State.den_eq, State.outputStep_outRate]
    have nextAcc : (s.outputStep chip).acc.toNat = (s.acc.toNat + s.clkFreq.toNat) % s.den := by
      rw [State.outputStep_acc, State.nextAcc_toNat rate, State.phaseSum]
    have increments :
        s.acc.toNat + (k + 1) * s.clkFreq.toNat = s.acc.toNat + s.clkFreq.toNat + k * s.clkFreq.toNat := by ring
    obtain ⟨clocks, acc, samples⟩ := ih (s := s.outputStep chip) (by simpa using rate)
      (by rw [nextAcc, sameDen]; exact Nat.mod_lt _ pos) (by rwa [sameDen])
    rw [State.outputStep_clockCount, State.outputStep_clkFreq, nextAcc, sameDen] at clocks
    rw [State.outputStep_clkFreq, nextAcc, sameDen] at acc
    rw [State.outputStep_sampleEvents] at samples
    rw [State.outputSteps_succ, clocks, acc, samples, increments]
    refine ⟨?_, Nat.mod_add_mod _ _ _, by omega⟩
    rw [Nat.add_assoc, State.nativeCycles, State.phaseSum, div_add_mod_add_div _ _ _ pos]

/-! ### One native cycle a step, and none -/

theorem avg_one (rnd : Bool) (a : Int) : avg rnd a 1 = a := by
  obtain ⟨low, high⟩ := avg_mem_Icc rnd (lo := a) (hi := a) (a := a) Nat.one_pos (by simp) (by simp)
  omega

/-- The average over one native cycle is its sample, in both modes. -/
theorem heldAfter_one (s : State) (f : ChipState → Word) (held : Word) : heldAfter s f held 1 = f s.chip := by
  apply BitVec.eq_of_toInt_eq
  rw [heldAfter_toInt _ _ _ Nat.one_pos, avg_one, clockSum_succ]
  simp [clockSum]

theorem State.nativeCycles_eq_zero_iff (rate : s.outRate ≠ 0#24) :
    s.nativeCycles = 0 ↔ s.acc.toNat + s.clkFreq.toNat < 64 * s.outRate.toNat := by
  have pos := State.le_den rate
  rw [State.den_eq] at pos
  rw [State.nativeCycles_eq, Nat.div_eq_zero_iff_lt (by omega)]

end

end Sys2Proof.Machine

namespace Sys2Proof.Proofs

open Sys2Proof Sys2Proof.Machine

/-- Settles O23: the three outcomes of GEN, and its word. -/
theorem genAcceptsItsCount : Obligations.GenAcceptsItsCount := by
  refine ⟨fun n s => ⟨?zero, fun count noRate => exec_gen_of_rate_zero count noRate, fun count rate =>
    exec_gen count rate⟩, encode_gen_toNat⟩
  case zero =>
    rintro rfl
    exact exec_gen_zero s

/-- Settles O24: the four outcomes of RUN, with the count in arithmetic, and its word. -/
theorem runAcceptsItsCount : Obligations.RunAcceptsItsCount := by
  refine ⟨fun b s => ⟨fun noTime => exec_run_of_nonpos noTime b, fun time noRate => exec_run_of_rate_zero time noRate b,
    fun time rate few => ?few, fun time rate enough => ?enough⟩, encode_run_toNat, fun w op operands =>
    isIllegal_of_field_ne_zero (i := .run false) op (by simp [Instr.zeroFields]) operands⟩
  case few =>
    exact exec_run_of_count_zero rate (by rw [State.runCount_eq time]; omega) b
  case enough =>
    have count : s.runCount ≠ 0 := by rw [State.runCount_eq time]; omega
    refine ⟨_, exec_run time rate count b, rfl, ?_⟩
    rw [State.startGen_remain, State.ofNat_runCount_toNat time, State.runCount_eq time]

/-- Settles O26: GEN enters the loop, and the loop ends in IDLE. -/
theorem genRunsToItsEnd : Obligations.GenRunsToItsEnd := by
  intro n s count rate noEvent
  have samples : (n.setWidth 40).toNat = n.toNat := BitVec.toNat_setWidth_of_le (by decide)
  rw [← samples] at noEvent ⊢
  exact ⟨_, exec_gen count rate, runSteps_startGen_gen (setWidth_count_ne_zero count) rate noEvent⟩

/-- Settles O27: RUN enters the loop, and the loop ends in the hand-off. -/
theorem runHandsOffAtItsEnd : Obligations.RunHandsOffAtItsEnd := by
  intro b s n time rate samples count noEvent
  rw [← State.runCount_eq time] at samples
  subst samples
  have remain := State.ofNat_runCount_toNat time
  rw [← remain] at noEvent
  have loop := runSteps_startGen_run (s := s) (runCount_ne_zero count) rate noEvent b
  rw [remain] at loop
  exact ⟨_, exec_run time rate count b, loop⟩

/-- Settles O28: the loop of the sum is the two loops one after the other, and the second write finds IDLE. -/
theorem consecutiveGensCompose : Obligations.ConsecutiveGensCompose := by
  intro a b s accepting noEvent rate countA countB fits
  have sum : (a + b).toNat = a.toNat + b.toNat := by
    rw [BitVec.toNat_add, Nat.mod_eq_of_lt fits]
  have positive : a.toNat ≠ 0 := fun zero => countA (BitVec.eq_of_toNat_eq zero)
  have countSum : a + b ≠ 0#24 := fun zero => by
    rw [zero] at sum
    simp at sum
    omega
  have steps : a.toNat + b.toNat + 2 = a.toNat + 1 + (b.toNat + 1) := by omega
  have first := runSteps_cmdWrite_gen (n := a)
    (s := { s with bus := [cmdWrite (encode (.gen a)), cmdWrite (encode (.gen b))] })
    accepting rfl noEvent countA rate
  have both := runSteps_cmdWrite_gen (n := a + b) (s := { s with bus := [cmdWrite (encode (.gen (a + b)))] })
    accepting rfl noEvent countSum rate
  rw [State.outputSteps_bus] at first
  rw [State.outputSteps_bus, sum] at both
  have second := runSteps_cmdWrite_gen (n := b)
    (s := (s.outputSteps Config.chipSample a.toNat).backIdle [cmdWrite (encode (.gen b))] [])
    ⟨rfl, by rw [State.outputSteps_keeps]; exact accepting.2⟩ rfl rfl countB
    (by rw [State.outputSteps_keeps]; exact rate)
  rw [State.outputSteps_backIdle, ← State.outputSteps_add] at second
  rw [both, steps, runSteps_add first]
  exact second

/-- Settles O31: with the divisor written out. -/
theorem stepsCountCyclesExactly : Obligations.StepsCountCyclesExactly :=
  fun _ _ k rate bound => State.outputSteps_counts k rate bound

/-- Settles O32: the one native cycle of the step is its own average. -/
theorem passThroughIsTheIdentity : Obligations.PassThroughIsTheIdentity := by
  intro chip s rate matched empty
  have pos := State.le_den rate
  have sum : s.phaseSum = s.den := by rw [State.phaseSum, empty, matched, State.den_eq]; simp
  have once : s.nativeCycles = 1 := by rw [State.nativeCycles, sum, Nat.div_self (by omega)]
  have nextAcc : s.nextAcc = s.acc := by rw [State.nextAcc, sum, Nat.mod_self, empty]
  rw [State.outputStep_eq, once, nextAcc, heldAfter_one, heldAfter_one]
  rfl

/-- Settles O33: with no native cycle the remainder is the whole sum. -/
theorem sampleAndHoldRepeats : Obligations.SampleAndHoldRepeats := by
  refine fun chip s rate => ⟨State.nativeCycles_eq_zero_iff rate, fun below => ?repeats⟩
  have none := (State.nativeCycles_eq_zero_iff rate).2 below
  have nextAcc : s.nextAcc = BitVec.ofNat 30 (s.acc.toNat + s.clkFreq.toNat) := by
    rw [State.nextAcc, State.phaseSum, State.den_eq, Nat.mod_eq_of_lt below]
  rw [State.outputStep_eq, none, nextAcc, heldAfter_zero, heldAfter_zero]
  simp [State.issued]

end Sys2Proof.Proofs

/-! # The key commands and strict mode (spec/40_register_programmer.md R106, R107, R109; spec/60_exceptions.md R200)

A write of the key byte in its two outcomes; the 30 writes of NOTE, which all pass where the byte's mask and channel do
not overlap; and strict mode, which only adds the fault. -/

namespace Sys2Proof.Machine

section
variable {s : State} {ch : BitVec 3} {mask : BitVec 4} {v : Byte}

/-! ### A write of the key byte -/

/-- With a zero mask the key byte is the channel, whatever KON_SHIFT is (spec/20_memory.md R59). -/
theorem keyByte_zero (shift : KonShift) (ch : BitVec 3) : keyByte shift ch 0#4 = ch.setWidth 8 := by
  apply BitVec.eq_of_toNat_eq
  simp [keyByte]

theorem setWidth_channel_toNat_mod (ch : BitVec 3) : (ch.setWidth 8).toNat % 8 = ch.toNat := by
  rw [BitVec.toNat_setWidth_of_le (by decide)]
  omega

/-- Only condition (ii) of R183 speaks of the key register. -/
theorem violates_key_iff : s.Violates 0x08#8 v ↔
    keyMask s.konShift v ≠ 0 ∧ ∃ r, r < 28 ∧ s.written.getLsbD (8 * r + v.toNat % 8) = false := by
  simp [State.Violates]

/-- From KON_SHIFT = 3 on, a key-on breaks the protocol where a register of its channel is unwritten. -/
theorem violates_keyByte_iff (apart : 3 ≤ s.konShift.val) : s.Violates 0x08#8 (keyByte s.konShift ch mask) ↔
    mask ≠ 0#4 ∧ ∃ r, r < 28 ∧ s.written.getLsbD (8 * r + ch.toNat) = false := by
  rw [violates_key_iff, keyMask_keyByte _ _ _ apart, keyByte_channel _ _ _ apart, Ne, Ne, BitVec.toNat_eq,
    BitVec.toNat_zero]

theorem State.track_keyReg (s : State) (v : Byte) :
    s.track 0x08#8 v = { s with keyed := trackKeyed s.konShift s.keyed 0x08#8 v } := rfl

/-- A key byte that passes is issued as one pair and tracked in KEYED alone, by the channel and the mask it names. -/
theorem exists_keyWrite (i : Instr) (passes : s.strict = true → ¬ s.Violates 0x08#8 v) :
    ∃ t, singleWrite i 0x08#8 v s = .next t ∧
      t = { s.issued [.write 0#1 0x08#8, .write 1#1 v] with keyed := t.keyed } ∧
      ∀ c, c < 8 → t.keyed.getLsbD c =
        if v.toNat % 8 = c then keyMask s.konShift v != 0 else s.keyed.getLsbD c := by
  refine ⟨_, singleWrite_of_passes i passes, rfl, fun c hc => ?_⟩
  rw [State.track_keyReg]
  have tracked := trackKeyed_get s.konShift s.keyed 0x08#8 v c hc
  simp only [true_and] at tracked
  exact tracked

theorem exec_keyon (ch : BitVec 3) (mask : BitVec 4) (s : State) :
    exec (.keyon ch mask) s = singleWrite (.keyon ch mask) 0x08#8 (keyByte s.konShift ch mask) s := by
  rw [← kon_eq]
  rfl

theorem exec_keyoff (ch : BitVec 3) (s : State) :
    exec (.keyoff ch) s = singleWrite (.keyoff ch) 0x08#8 (ch.setWidth 8) s := by
  rw [← keyByte_zero s.konShift, ← kon_eq]
  rfl

theorem mask_toNat_bne_zero (mask : BitVec 4) : (mask.toNat != 0) = (mask != 0#4) := by
  rw [Bool.eq_iff_iff, bne_iff_ne, bne_iff_ne, Ne, Ne, BitVec.toNat_eq, BitVec.toNat_zero]

/-- From KON_SHIFT = 3 on, the byte names the channel and the mask it was built from. -/
theorem exists_keyByteWrite (i : Instr) (apart : 3 ≤ s.konShift.val)
    (passes : s.strict = true → ¬ s.Violates 0x08#8 (keyByte s.konShift ch mask)) :
    ∃ t, singleWrite i 0x08#8 (keyByte s.konShift ch mask) s = .next t ∧
      t = { s.issued [.write 0#1 0x08#8, .write 1#1 (keyByte s.konShift ch mask)] with keyed := t.keyed } ∧
      ∀ c, c < 8 → t.keyed.getLsbD c = if c = ch.toNat then mask != 0#4 else s.keyed.getLsbD c := by
  obtain ⟨t, runs, frame, keyed⟩ := exists_keyWrite i passes
  rw [keyMask_keyByte _ _ _ apart, keyByte_channel _ _ _ apart] at keyed
  simp only [mask_toNat_bne_zero, eq_comm (a := ch.toNat)] at keyed
  exact ⟨t, runs, frame, keyed⟩

/-! ### Sequences of writes -/

theorem State.afterWrites_konShift (s : State) (ws : List (Byte × Byte)) :
    (s.afterWrites ws).konShift = s.konShift := by
  rw [State.afterWrites_eq]
  rfl

/-- Without STRICT no write is checked. -/
theorem State.writesPass_of_not_strict (relaxed : s.strict = false) (ws : List (Byte × Byte)) : s.WritesPass ws := by
  intro done a v rest decomposed
  rw [State.protoViolation, State.afterWrites_strict, relaxed, Bool.false_and]

/-- In strict mode the writes pass when none breaks the protocol where it stands. -/
theorem State.writesPass_iff_of_strict (strict : s.strict = true) {ws : List (Byte × Byte)} :
    s.WritesPass ws ↔
      ∀ done a v rest, ws = done ++ (a, v) :: rest → ¬ (s.throughWrites done).Violates a v := by
  have stillStrict (done : List (Byte × Byte)) : (s.throughWrites done).strict = true := strict
  simp only [State.WritesPass, Bool.eq_false_iff, Ne, protoViolation_iff, State.afterWrites_eq_throughWrites,
    stillStrict, true_and]

theorem State.WritesPass.append {xs ys : List (Byte × Byte)} (first : s.WritesPass xs)
    (later : (s.afterWrites xs).WritesPass ys) : s.WritesPass (xs ++ ys) := by
  induction xs generalizing s with
  | nil => exact later
  | cons p rest ih =>
    obtain ⟨a, v⟩ := p
    exact State.writesPass_cons first.head (ih first.tail later)

/-! ### The 30 writes of NOTE -/

/-- The two key bytes and the staged voice between them. -/
theorem noteWrites_eq (shift : KonShift) (ch : BitVec 3) (mask : BitVec 4) (cfg : Staging) :
    noteWrites shift ch mask cfg =
      (0x08#8, ch.setWidth 8) :: (voiceWrites ch cfg ++ [(0x08#8, keyByte shift ch mask)]) := by
  rw [noteWrites, kon_eq, kon_eq, keyByte_zero]
  rfl

theorem exec_note_of_passes (passes : s.WritesPass (noteWrites s.konShift ch mask s.vcfg)) :
    exec (.note ch mask) s = .next (s.afterWrites (noteWrites s.konShift ch mask s.vcfg)) := by
  rw [exec, execNote, State.regWrites_ok passes, endCommand_ok]

/-- A key byte with a zero mask breaks nothing. -/
theorem protoViolation_keyOff (apart : 3 ≤ s.konShift.val) (ch : BitVec 3) :
    s.protoViolation 0x08#8 (ch.setWidth 8) = false := by
  rw [Bool.eq_false_iff, Ne, protoViolation_iff, ← keyByte_zero s.konShift, violates_keyByte_iff apart]
  simp

/-- Nor does a key-on whose channel is written throughout. -/
theorem protoViolation_keyOn (apart : 3 ≤ s.konShift.val)
    (written : ∀ r, r < 28 → s.written.getLsbD (8 * r + ch.toNat) = true) (mask : BitVec 4) :
    s.protoViolation 0x08#8 (keyByte s.konShift ch mask) = false := by
  rw [Bool.eq_false_iff, Ne, protoViolation_iff, violates_keyByte_iff apart]
  rintro ⟨-, -, r, hr, unwritten⟩
  rw [written r hr] at unwritten
  cases unwritten

/-- The key-off frees the channel for its voice, and the voice writes all that the key-on asks for
(spec/40_register_programmer.md R109). -/
theorem State.writesPass_noteWrites (apart : 3 ≤ s.konShift.val) (ch : BitVec 3) (mask : BitVec 4) (cfg : Staging) :
    s.WritesPass (noteWrites s.konShift ch mask cfg) := by
  obtain ⟨u, keyedOff⟩ : ∃ u, u = (s.portPair 0x08#8 (ch.setWidth 8)).track 0x08#8 (ch.setWidth 8) := ⟨_, rfl⟩
  have shift : u.konShift = s.konShift := by rw [keyedOff]; rfl
  have unkeyed : u.keyed.getLsbD ch.toNat = false := by
    have mask_zero : keyMask s.konShift (ch.setWidth 8) = 0 := by
      rw [← keyByte_zero s.konShift, keyMask_keyByte _ _ _ apart]
      rfl
    rw [keyedOff, State.track_keyReg, trackKeyed_get _ _ _ _ _ (by omega), setWidth_channel_toNat_mod,
      if_pos ⟨rfl, rfl⟩]
    exact bne_eq_false_iff_eq.2 mask_zero
  have voice : u.WritesPass (voiceWrites ch cfg) := State.writesPass_voiceWrites cfg fun _ => unkeyed
  have written : ∀ r, r < 28 → (u.afterWrites (voiceWrites ch cfg)).written.getLsbD (8 * r + ch.toNat) = true := by
    intro r hr
    have channel : (8 * r + ch.toNat) % 8 = ch.toNat := by omega
    rw [State.afterWrites_voiceWrites_written _ _ (by omega), channel, beq_self_eq_true, Bool.true_or]
  have keyOn : (u.afterWrites (voiceWrites ch cfg)).protoViolation 0x08#8 (keyByte s.konShift ch mask) = false := by
    have shift' : (u.afterWrites (voiceWrites ch cfg)).konShift = s.konShift := by
      rw [State.afterWrites_konShift, shift]
    rw [← shift']
    exact protoViolation_keyOn (by rwa [shift']) written mask
  rw [noteWrites_eq]
  refine State.writesPass_cons (protoViolation_keyOff apart ch) ?_
  rw [← keyedOff]
  exact voice.append (State.writesPass_cons keyOn (State.writesPass_nil _))

/-- A note marks the registers of its channel as written, and no other. -/
theorem State.afterWrites_noteWrites_written (s : State) (shift : KonShift) (ch : BitVec 3) (mask : BitVec 4)
    (cfg : Staging) {i : Nat} (hi : i < 224) :
    (s.afterWrites (noteWrites shift ch mask cfg)).written.getLsbD i =
      (i % 8 == ch.toNat || s.written.getLsbD i) := by
  have notConfig : ((0x08#8 : Byte).toNat == 0x20 + i) = false := by
    rw [beq_eq_false_iff_ne, BitVec.toNat_ofNat]
    omega
  rw [State.afterWrites_written, foldl_trackWritten_get _ _ i hi, noteWrites_eq, List.any_cons, List.any_append,
    voiceWrites_any ch cfg i hi, List.any_cons, List.any_nil, notConfig, Bool.false_or, Bool.false_or, Bool.or_false]

/-- KEYED after a note is what its two key bytes name, the later one first. -/
theorem State.afterWrites_noteWrites_keyed (s : State) (ch : BitVec 3) (mask : BitVec 4) (cfg : Staging) {c : Nat}
    (hc : c < 8) : (s.afterWrites (noteWrites s.konShift ch mask cfg)).keyed.getLsbD c =
      if (keyByte s.konShift ch mask).toNat % 8 = c then keyMask s.konShift (keyByte s.konShift ch mask) != 0
      else if ch.toNat = c then keyMask s.konShift (ch.setWidth 8) != 0
      else s.keyed.getLsbD c := by
  have voice : ∀ p ∈ voiceWrites ch cfg, p.1 ≠ 0x08#8 := fun _ => voiceWrites_ne_key
  rw [State.afterWrites_keyed, noteWrites_eq, List.foldl_cons, List.foldl_append, foldl_trackKeyed_of_ne _ _ voice,
    List.foldl_cons, List.foldl_nil, trackKeyed_get _ _ _ _ _ hc, trackKeyed_get _ _ _ _ _ hc,
    setWidth_channel_toNat_mod]
  simp only [true_and]

/-- From KON_SHIFT = 3 on, that is the channel and the mask of the command. -/
theorem State.afterWrites_noteWrites_keyed_of_apart (apart : 3 ≤ s.konShift.val) (ch : BitVec 3) (mask : BitVec 4)
    (cfg : Staging) {c : Nat} (hc : c < 8) :
    (s.afterWrites (noteWrites s.konShift ch mask cfg)).keyed.getLsbD c =
      if c = ch.toNat then mask != 0#4 else s.keyed.getLsbD c := by
  rw [State.afterWrites_noteWrites_keyed _ _ _ _ hc, keyMask_keyByte _ _ _ apart, keyByte_channel _ _ _ apart,
    mask_toNat_bne_zero]
  by_cases same : ch.toNat = c
  · rw [if_pos same, if_pos same.symm]
  · rw [if_neg same, if_neg same, if_neg (Ne.symm same)]

/-- Register writes change the chip, its history, KEYED and WRITTEN only. -/
theorem State.afterWrites_frame (s : State) (ws : List (Byte × Byte)) : s.afterWrites ws =
    { s.issued (pairOps ws) with written := (s.afterWrites ws).written, keyed := (s.afterWrites ws).keyed } := by
  rw [State.afterWrites_written, State.afterWrites_keyed, State.afterWrites_eq]

end

/-! ### Strict mode -/

/-- Of the two outcomes of the command of word w from s, the one with STRICT = 1 is PROTO recorded and nothing else, or
the one with STRICT = 0 but for STRICT (spec/60_exceptions.md R200). -/
def OnlyAddsTheFault (s : State) (w : Word) (relaxed strict : Host.Outcome State Fault Refusal) : Prop :=
  (∃ a, strict = .next (State.recorded { s with strict := true } .proto w a)) ∨
    ∃ t, relaxed = .next t ∧ strict = .next { t with strict := true }

theorem onlyAddsTheFault_regWrites (s : State) (w : Word) (ws : List (Byte × Byte)) :
    OnlyAddsTheFault s w (endCommand (State.regWrites { s with strict := false } w ws))
      (endCommand (State.regWrites { s with strict := true } w ws)) := by
  rcases State.regWrites_cases { s with strict := true } w ws with ⟨-, passed⟩ | ⟨-, a, -, -, -, -, -, raised⟩
  · have relaxed := State.regWrites_ok (w := w)
      (State.writesPass_of_not_strict (s := { s with strict := false }) rfl ws)
    refine .inr ⟨_, by rw [relaxed, endCommand_ok], ?_⟩
    rw [passed, endCommand_ok, State.afterWrites_eq, State.afterWrites_eq]
    rfl
  · exact .inl ⟨a, by rw [raised, endCommand_error]⟩

theorem onlyAddsTheFault_singleWrite (s : State) (i : Instr) (a v : Byte) :
    OnlyAddsTheFault s (encode i) (singleWrite i a v { s with strict := false })
      (singleWrite i a v { s with strict := true }) := by
  rw [singleWrite, singleWrite, State.regWrite_eq_regWrites, State.regWrite_eq_regWrites]
  exact onlyAddsTheFault_regWrites s (encode i) [(a, v)]

theorem onlyAddsTheFault_checkedWrite (s : State) (i : Instr) (legal : Bool) (a v : Byte) :
    OnlyAddsTheFault s (encode i)
      (if legal then singleWrite i a v { s with strict := false } else illegalTerm i { s with strict := false })
      (if legal then singleWrite i a v { s with strict := true } else illegalTerm i { s with strict := true }) := by
  cases legal with
  | true => exact onlyAddsTheFault_singleWrite s i a v
  | false => exact .inr ⟨_, rfl, rfl⟩

/-- Only register writes look at STRICT, and no command changes it. -/
theorem exec_onlyAddsTheFault (i : Instr) (s : State) :
    OnlyAddsTheFault s (encode i) (exec i { s with strict := false }) (exec i { s with strict := true }) := by
  cases i with
  | nop | creset | rsinit | play | stop => exact .inr ⟨_, rfl, rfl⟩
  | wreg | keyon | keyoff => exact onlyAddsTheFault_singleWrite s _ _ _
  | voice | note => exact onlyAddsTheFault_regWrites s _ _
  | chset | opset => exact onlyAddsTheFault_checkedWrite s _ _ _ _
  | gen n =>
    rw [exec, exec, execGen, execGen]
    split_ifs <;> exact .inr ⟨_, rfl, rfl⟩
  | run b =>
    have sameCount : State.runCount { s with strict := false } = State.runCount { s with strict := true } := rfl
    rw [exec, exec, execRun, execRun, sameCount]
    split_ifs <;> exact .inr ⟨_, rfl, rfl⟩

end Sys2Proof.Machine

namespace Sys2Proof.Proofs

open Sys2Proof Sys2Proof.Machine

/-- Settles O16: KEYON is one key byte write; from KON_SHIFT = 3 on the byte is read back as its operands. -/
theorem keyonWritesTheKeyByte : Obligations.KeyonWritesTheKeyByte := by
  refine ⟨fun ch mask s v byte => ?anyShift, fun ch mask s apart => ⟨fun applied => ?passes, fun strict on unwritten =>
    ?raises⟩, fun ch mask => ⟨?four, encode_keyon_toNat ch mask⟩, fun w op illegal => ?illegal⟩
  case anyShift =>
    rw [exec_keyon, ← byte]
    exact ⟨singleWrite_of_violates _, exists_keyWrite _⟩
  case passes =>
    rw [exec_keyon]
    refine exists_keyByteWrite _ apart fun strict violates => ?_
    obtain ⟨on, r, hr, unwritten⟩ := (violates_keyByte_iff apart).1 violates
    rw [applied strict on r hr] at unwritten
    cases unwritten
  case raises =>
    rw [exec_keyon]
    exact singleWrite_of_violates _ strict ((violates_keyByte_iff apart).2 ⟨on, unwritten⟩)
  case four => rw [← kon_eq, kon_four]
  case illegal =>
    rcases illegal with upper | middle | low
    · exact isIllegal_of_field_ne_zero (i := .keyon 0 0) op (by simp [Instr.zeroFields]) upper
    · exact isIllegal_of_field_ne_zero (i := .keyon 0 0) op (by simp [Instr.zeroFields]) middle
    · exact isIllegal_of_field_ne_zero (i := .keyon 0 0) op (by simp [Instr.zeroFields]) low

/-- Settles O17: KEYOFF is the write of the key byte with a zero mask, which from KON_SHIFT = 3 on breaks nothing. -/
theorem keyoffWritesTheKeyByte : Obligations.KeyoffWritesTheKeyByte := by
  refine ⟨fun ch s v byte => ?anyShift, fun ch s apart => ?apart, encode_keyoff_toNat, fun w op illegal => ?illegal⟩
  case anyShift =>
    subst byte
    rw [exec_keyoff]
    refine ⟨singleWrite_of_violates _, fun passes => ?_⟩
    obtain ⟨t, runs, frame, keyed⟩ := exists_keyWrite (.keyoff ch) passes
    rw [setWidth_channel_toNat_mod] at keyed
    exact ⟨t, runs, frame, keyed⟩
  case apart =>
    rw [exec_keyoff, ← keyByte_zero s.konShift]
    exact exists_keyByteWrite _ apart fun _ violates => ((violates_keyByte_iff apart).1 violates).1 rfl
  case illegal =>
    rcases illegal with upper | low
    · exact isIllegal_of_field_ne_zero (i := .keyoff 0) op (by simp [Instr.zeroFields]) upper
    · exact isIllegal_of_field_ne_zero (i := .keyoff 0) op (by simp [Instr.zeroFields]) low

/-- Settles O19: NOTE is its 30 writes, all issued where they pass; they pass without STRICT and from KON_SHIFT = 3 on,
and in strict mode the first that does not is recorded. -/
theorem noteKeysOffConfiguresAndKeysOn : Obligations.NoteKeysOffConfiguresAndKeysOn := by
  refine ⟨fun ch mask s off on ws offByte onByte sequence => ?exec, encode_note_toNat, fun w op illegal => ?illegal⟩
  case exec =>
    have writes : ws = noteWrites s.konShift ch mask s.vcfg := by
      rw [sequence, offByte, onByte, noteWrites_eq]
      rfl
    refine ⟨fun easy => ?passes, fun strict => ⟨fun noneBreaks => ?completes,
      fun done a v rest decomposed before breaks => ?raises⟩⟩
    case passes =>
      have passes : s.WritesPass (noteWrites s.konShift ch mask s.vcfg) :=
        easy.elim (State.writesPass_of_not_strict · _) (State.writesPass_noteWrites · ch mask s.vcfg)
      rw [writes, offByte, onByte]
      exact ⟨_, exec_note_of_passes passes, State.afterWrites_frame s _,
        fun i hi => State.afterWrites_noteWrites_written s _ ch mask _ hi,
        fun apart c hc => State.afterWrites_noteWrites_keyed_of_apart apart ch mask _ hc,
        fun c hc => State.afterWrites_noteWrites_keyed s ch mask _ hc⟩
    case completes =>
      have passes := (State.writesPass_iff_of_strict strict).2 noneBreaks
      rw [writes] at passes ⊢
      rw [exec_note_of_passes passes, State.afterWrites_eq_throughWrites]
    case raises =>
      have passes := (State.writesPass_iff_of_strict strict).2 before
      have violates : (s.afterWrites done).protoViolation a v = true := by
        rw [protoViolation_iff, State.afterWrites_strict, State.afterWrites_eq_throughWrites]
        exact ⟨strict, breaks⟩
      rw [exec, execNote, ← writes, decomposed, State.regWrites_error passes violates, endCommand_error]
  case illegal =>
    rcases illegal with upper | middle | low
    · exact isIllegal_of_field_ne_zero (i := .note 0 0) op (by simp [Instr.zeroFields]) upper
    · exact isIllegal_of_field_ne_zero (i := .note 0 0) op (by simp [Instr.zeroFields]) middle
    · exact isIllegal_of_field_ne_zero (i := .note 0 0) op (by simp [Instr.zeroFields]) low

/-- Settles O20: command by command. -/
theorem strictModeOnlyAddsTheFault : Obligations.StrictModeOnlyAddsTheFault := exec_onlyAddsTheFault

end Sys2Proof.Proofs
